-- ==== Sys2Proof/Word.lean ====
section
/-! DEFINITION. The types of the data: bytes, 32-bit words, and groups of four of one kind. A schedule word or a
state column is four bytes (00_scope.md R12, R11), a block or a state is four columns (R11), and a bank of data
registers is four words (10_state.md R31, R32, R34). -/

namespace Sys2Proof

/-- A byte, 8 bits (00_scope.md R10). -/
abbrev Byte := BitVec 8

/-- A word, 32 bits: what one bus access moves (00_scope.md R10, 20_memory.md R64). -/
abbrev Word := BitVec 32

/-- Four things of one kind, numbered 0 to 3. -/
@[ext]
structure Four (α : Type) where
  x0 : α
  x1 : α
  x2 : α
  x3 : α
deriving DecidableEq, Repr, Inhabited

namespace Four

variable {α β γ : Type}

/-- The element numbered `i`. -/
def get (q : Four α) (i : Fin 4) : α :=
  match i with
  | 0 => q.x0
  | 1 => q.x1
  | 2 => q.x2
  | 3 => q.x3

/-- The four elements `f 0`, `f 1`, `f 2`, `f 3`. -/
def ofFn (f : Fin 4 → α) : Four α := ⟨f 0, f 1, f 2, f 3⟩

/-- Element `i` replaced by `a`. -/
def set (q : Four α) (i : Fin 4) (a : α) : Four α := ofFn fun j => if j = i then a else q.get j

/-- `f` of every element. -/
def map (f : α → β) (q : Four α) : Four β := ⟨f q.x0, f q.x1, f q.x2, f q.x3⟩

/-- `f` of the elements of the same number. -/
def zipWith (f : α → β → γ) (p : Four α) (q : Four β) : Four γ :=
  ⟨f p.x0 q.x0, f p.x1 q.x1, f p.x2 q.x2, f p.x3 q.x3⟩

/-- The elements in order. -/
def toList (q : Four α) : List α := [q.x0, q.x1, q.x2, q.x3]

/-- All four elements equal to `a`. -/
def fill (a : α) : Four α := ⟨a, a, a, a⟩

end Four

/-- Four bytes: a schedule word `(w.0, w.1, w.2, w.3)` (00_scope.md R12) or a state column (R11). -/
abbrev Quad := Four Byte

/-- Sixteen bytes: a block, or the state `s[r][c]`, held as its four columns `c` (00_scope.md R11). -/
abbrev Block := Four Quad

/-- The 44 words of the round-key schedule (00_scope.md R2, 10_state.md R42). -/
abbrev Schedule := Vector Quad 44

namespace Block

/-- `s[r][c]`, the byte in row `r` and column `c` (00_scope.md R11). -/
def at' (s : Block) (r c : Fin 4) : Byte := (s.get c).get r

/-- The state whose byte in row `r` and column `c` is `f r c`. -/
def ofRC (f : Fin 4 → Fin 4 → Byte) : Block := Four.ofFn fun c => Four.ofFn fun r => f r c

/-- The sixteen bytes in sequence order, byte `r + 4c` being `s[r][c]` (00_scope.md R11). -/
def bytes (s : Block) : List Byte := s.x0.toList ++ s.x1.toList ++ s.x2.toList ++ s.x3.toList

/-- `f` of every byte. -/
def mapBytes (f : Byte → Byte) (s : Block) : Block := s.map (Four.map f)

/-- Bytewise exclusive OR. -/
def xor (s k : Block) : Block := Four.zipWith (Four.zipWith (· ^^^ ·)) s k

/-- Sixteen bytes of 0x00. -/
def zero : Block := Four.fill (Four.fill 0x00#8)

end Block

end Sys2Proof
end

