-- ==== Sys2Proof/Syntax.lean ====
section
/-! DEFINITION. The commands a host writes to CTRL, one constructor per row of spec/opcode_table.json (30_encoding.md R85,
R86). The bits [31:8] of the written value are ignored (R88), so no field holds them; ROUND is read by ARK alone (R87) but
recorded in CTRL_RB (10_state.md R21), so every command carries it. -/

namespace Sys2Proof

/-- A command, or one of the two decode verdicts of 30_encoding.md R92 (rejected encodings). `rnd` is ROUND, v[7:4]. -/
inductive Instr where
  /-- NOP, OP 0x0 (42_block_cipher.md R185). -/
  | nop (rnd : BitVec 4)
  /-- KEYEXP, OP 0x1 (40_key_schedule.md R120). -/
  | keyexp (rnd : BitVec 4)
  /-- ENC, OP 0x2 (42_block_cipher.md R182). -/
  | enc (rnd : BitVec 4)
  /-- DEC, OP 0x3 (42_block_cipher.md R183). -/
  | dec (rnd : BitVec 4)
  /-- LOAD, OP 0x4 (42_block_cipher.md R184). -/
  | load (rnd : BitVec 4)
  /-- SUB, OP 0x5 (41_round_transforms.md R150). -/
  | sub (rnd : BitVec 4)
  /-- ISUB, OP 0x6 (41_round_transforms.md R151). -/
  | isub (rnd : BitVec 4)
  /-- SHR, OP 0x7 (41_round_transforms.md R152). -/
  | shr (rnd : BitVec 4)
  /-- ISHR, OP 0x8 (41_round_transforms.md R153). -/
  | ishr (rnd : BitVec 4)
  /-- MIX, OP 0x9 (41_round_transforms.md R154). -/
  | mix (rnd : BitVec 4)
  /-- IMIX, OP 0xA (41_round_transforms.md R155). -/
  | imix (rnd : BitVec 4)
  /-- ARK n, OP 0xB with ROUND = n; legal for n in 0..10 (41_round_transforms.md R156, 30_encoding.md R87). -/
  | ark (rnd : BitVec 4)
  /-- OP 0xB with ROUND 11: rejected with BAD_ROUND (60_exceptions.md R223). -/
  | arkBadRound11
  /-- OP 0xB with ROUND 12: rejected with BAD_ROUND (60_exceptions.md R223). -/
  | arkBadRound12
  /-- OP 0xB with ROUND 13: rejected with BAD_ROUND (60_exceptions.md R223). -/
  | arkBadRound13
  /-- OP 0xB with ROUND 14: rejected with BAD_ROUND (60_exceptions.md R223). -/
  | arkBadRound14
  /-- OP 0xB with ROUND 15: rejected with BAD_ROUND (60_exceptions.md R223). -/
  | arkBadRound15
  /-- OP 0xC..0xF: rejected with ILLEGAL_OP (60_exceptions.md R224). -/
  | illegal (op : BitVec 4) (rnd : BitVec 4)
deriving DecidableEq, Repr

end Sys2Proof
end

