-- ==== Sys2Proof/WellFormed.lean ====
section
/-! DEFINITION. Which terms of Instr an encoding exists for: ARK takes ROUND 0..10 (30_encoding.md R87) and the illegal
opcodes are 0xC..0xF (R89). Every other field admits all its values. -/

namespace Sys2Proof

/-- The term stands for some value of a CTRL write. -/
def Instr.wf (i : Instr) : Bool :=
  match i with
  | .nop _ => true
  | .keyexp _ => true
  | .enc _ => true
  | .dec _ => true
  | .load _ => true
  | .sub _ => true
  | .isub _ => true
  | .shr _ => true
  | .ishr _ => true
  | .mix _ => true
  | .imix _ => true
  | .ark rnd => decide (rnd.toNat ≤ 10)
  | .arkBadRound11 => true
  | .arkBadRound12 => true
  | .arkBadRound13 => true
  | .arkBadRound14 => true
  | .arkBadRound15 => true
  | .illegal op _ => decide (12 ≤ op.toNat)

end Sys2Proof
end

