-- ==== Sys2Proof/Decode.lean ====
section
/-! DEFINITION. The decoder of 30_encoding.md R92, total on every 32-bit value (R91), and the encoder of R93 after it. The
rejected encodings decode to constructors of their own (the verdicts ILLEGAL and BADROUND), so nothing falls through to a
neighbour. -/

namespace Sys2Proof

/-- OP, `v[3:0]` (30_encoding.md R85). -/
def opField (v : Word) : BitVec 4 := v.extractLsb' 0 4

/-- ROUND, `v[7:4]` (30_encoding.md R85). -/
def roundField (v : Word) : BitVec 4 := v.extractLsb' 4 4

/-- OP = 0xB with ROUND = `rnd` (30_encoding.md R92: `if rnd <= 10 then ARK(rnd) else BADROUND`). -/
def arkOfRound (rnd : BitVec 4) : Instr :=
  match rnd.toNat with
  | 11 => .arkBadRound11
  | 12 => .arkBadRound12
  | 13 => .arkBadRound13
  | 14 => .arkBadRound14
  | 15 => .arkBadRound15
  | _ => .ark rnd

/-- The decoder's case on OP (30_encoding.md R92). -/
def instrOfFields (op rnd : BitVec 4) : Instr :=
  match op.toNat with
  | 0x0 => .nop rnd
  | 0x1 => .keyexp rnd
  | 0x2 => .enc rnd
  | 0x3 => .dec rnd
  | 0x4 => .load rnd
  | 0x5 => .sub rnd
  | 0x6 => .isub rnd
  | 0x7 => .shr rnd
  | 0x8 => .ishr rnd
  | 0x9 => .mix rnd
  | 0xA => .imix rnd
  | 0xB => arkOfRound rnd
  | _ => .illegal op rnd

/-- The decoder of a CTRL write of `v` (30_encoding.md R92). Bits [31:8] are ignored (R88). -/
def decode (v : Word) : Instr := instrOfFields (opField v) (roundField v)

/-- The opcode of a command (30_encoding.md R86). -/
def Instr.op (i : Instr) : BitVec 4 :=
  match i with
  | .nop _ => 0x0
  | .keyexp _ => 0x1
  | .enc _ => 0x2
  | .dec _ => 0x3
  | .load _ => 0x4
  | .sub _ => 0x5
  | .isub _ => 0x6
  | .shr _ => 0x7
  | .ishr _ => 0x8
  | .mix _ => 0x9
  | .imix _ => 0xA
  | .ark _ => 0xB
  | .arkBadRound11 => 0xB
  | .arkBadRound12 => 0xB
  | .arkBadRound13 => 0xB
  | .arkBadRound14 => 0xB
  | .arkBadRound15 => 0xB
  | .illegal op _ => op

/-- The ROUND field of a command (30_encoding.md R87). -/
def Instr.round (i : Instr) : BitVec 4 :=
  match i with
  | .nop rnd => rnd
  | .keyexp rnd => rnd
  | .enc rnd => rnd
  | .dec rnd => rnd
  | .load rnd => rnd
  | .sub rnd => rnd
  | .isub rnd => rnd
  | .shr rnd => rnd
  | .ishr rnd => rnd
  | .mix rnd => rnd
  | .imix rnd => rnd
  | .ark rnd => rnd
  | .arkBadRound11 => 11
  | .arkBadRound12 => 12
  | .arkBadRound13 => 13
  | .arkBadRound14 => 14
  | .arkBadRound15 => 15
  | .illegal _ rnd => rnd

/-- The canonical encoding: OP in [3:0], ROUND in [7:4], the reserved bits 0 (30_encoding.md R85, R93). -/
def encode (i : Instr) : Word := (i.round ++ i.op).setWidth 32

/-- The host's reading of one opcode-table word: the `nbits` low bits of `w`, the bits above them 0. A CTRL write has one
length, 32 bits (30_encoding.md R85, R91), so a longer word is no command. -/
def decodeTableWord (nbits w : Nat) : Option Instr :=
  if nbits ≤ 32 then some (decode (BitVec.ofNat 32 (w % 2 ^ nbits))) else none

end Sys2Proof
end

