-- ==== Sys2Proof/Config.lean ====
section
/-! DEFINITION. What an implementation or a platform fixes and the spec leaves open (00_scope.md R9,
92_eei_decisions.md open parameters, 93_implementation_defined.md part 1). Each is a constant with no body: nothing can
evaluate it, so a claim about it is true whatever it is. -/

namespace Sys2Proof

/-- The lossy text-decoding policy of the host: an open parameter (00_scope.md R9(b), U14). -/
inductive TextPolicy where
  | replace
  | ignore
deriving DecidableEq, Repr, Inhabited

namespace Config

/-- DESIGN CHOICE (log entry 3): the free completion time. At the `n`-th draw of a free value, a command of opcode `op`
that is accepted completes `latency n op` steps after the step that follows its acceptance, so its LAT is
`latency n op + 1`: any positive finite number, which may differ between runs (00_scope.md R9(a), R261). -/
opaque latency : Nat → BitVec 4 → Nat

/-- The schedule store after a reset event, at the `n`-th draw: any 44-word content (10_state.md R42, U3; log entry 5). -/
opaque rkAfterReset : Nat → Schedule

/-- AES_BASE is `256 * aesPage`: a multiple of 256 in the host's physical address space (00_scope.md R9(c), 20_memory.md
R61; log entry 10). -/
opaque aesPage : Nat

/-- The base address of the register window, AES_BASE (20_memory.md R61). -/
def aesBase : Nat := 256 * aesPage

/-- TEXT_DECODE_POLICY (00_scope.md R9(b), 43_host_message_codec.md R210; log entry 11). -/
opaque textDecodePolicy : TextPolicy

/-- The text that stands for one invalid sequence under the policy `replace`: the spec does not state it
(43_host_message_codec.md R210; log entry 11). -/
opaque replacementText : List Char

/-- How many bytes, after the first, the invalid sequence at the head of a byte sequence takes in, as far as no well-formed
character begins there: the spec does not state it (43_host_message_codec.md R210; log entry 11). -/
opaque invalidSpan : List Byte → Nat

end Config

end Sys2Proof
end

