-- ==== Sys2Proof/Machine/State.lean ====
section
/-! DEFINITION. Everything the spec gives the machine, as plain data: the core's registers and internal state
(10_state.md), the host agent's operations and observations (00_scope.md R17, R18), and the two counters the free values
take (log entry 3). State.reset is 70_reset_and_hazards.md R250. -/

namespace Sys2Proof.Machine

/-- The sequencer (10_state.md R43): IDLE, or BUSY with the pending pair `(op, rnd)` recorded at acceptance. STATUS.BUSY
is 1 exactly in the second case (R23), so no other field holds it. -/
inductive Sequencer where
  | idle
  | busy (op rnd : BitVec 4)
deriving DecidableEq, Repr

/-- The width of a host access. Only `word` belongs to the interface (20_memory.md R64). -/
inductive AccessSize where
  | byte
  | half
  | word
deriving DecidableEq, Repr

/-- Where a host access goes: a window offset (00_scope.md R13), or an address of the host's physical address space
(20_memory.md R61). -/
inductive Address where
  | window (off : BitVec 8)
  | physical (addr : Nat)
deriving DecidableEq, Repr

/-- One thing the outside world does to the core, in the host's program order (20_memory.md R71). -/
inductive HostOp where
  /-- `MemRead(off, 4)`, `R off` (00_scope.md R13, 30_encoding.md R94); other sizes are refused (20_memory.md R64). -/
  | read (size : AccessSize) (at_ : Address)
  /-- `MemWrite(off, 4, v)`, `W off, v` (00_scope.md R13, 30_encoding.md R94); other sizes are refused. -/
  | write (size : AccessSize) (at_ : Address) (v : Word)
  /-- WAIT, the host's loop on STATUS bit 0 (30_encoding.md R94). -/
  | wait
  /-- The host samples the level of the IRQ output (00_scope.md R18). -/
  | sampleIrq
  /-- The host waits for the IRQ level to be high (20_memory.md R73). -/
  | waitIrq
  /-- The platform asserts and releases the reset input (70_reset_and_hazards.md R250; log entry 6). -/
  | reset
  /-- An access by a second bus master, which the model refuses (20_memory.md R74). -/
  | otherMaster
deriving DecidableEq, Repr

/-- One observation (00_scope.md R18): the value a host read of a window offset returned, or the level of the IRQ output. -/
inductive Obs where
  | read (off : BitVec 8) (value : Word)
  | irq (level : Bool)
deriving DecidableEq, Repr

/-- The state of the machine. -/
structure State where
  /-- CTRL_RB, the readback field of CTRL (10_state.md R21). -/
  ctrlRb : BitVec 8
  /-- The sequencer's phase and pending command (10_state.md R43); STATUS.BUSY (R23). -/
  seq : Sequencer
  /-- STATUS.DONE (10_state.md R24). -/
  done : Bool
  /-- STATUS.KEY_VALID (10_state.md R25). -/
  keyValid : Bool
  /-- STATUS.ERR (10_state.md R26). -/
  err : Bool
  /-- STATUS.ERRCODE (10_state.md R26, 60_exceptions.md R220). -/
  errCode : BitVec 4
  /-- STATUS.LAST_OP (10_state.md R27). -/
  lastOp : BitVec 4
  /-- KEYLEN.LEN (10_state.md R29). -/
  len : BitVec 5
  /-- INTEN.DONE_IE (10_state.md R30). -/
  doneIe : Bool
  /-- INTEN.ERR_IE (10_state.md R30). -/
  errIe : Bool
  /-- KEY0..KEY3 (10_state.md R31). -/
  key : Four Word
  /-- DIN0..DIN3 (10_state.md R32). -/
  din : Four Word
  /-- DOUT0..DOUT3 (10_state.md R34). -/
  dout : Four Word
  /-- RKIDX.IDX (10_state.md R35). -/
  idx : BitVec 6
  /-- S, the working state (10_state.md R38). -/
  work : Block
  /-- RK, the round-key schedule store (10_state.md R42). -/
  rk : Schedule
  /-- The model's own: how many more host turns pass before the command in flight completes (log entry 3). -/
  wait : Nat
  /-- The model's own: how many free values have been drawn (log entry 3). -/
  draw : Nat
  /-- The host agent's operations still to perform, in program order (00_scope.md R17, 20_memory.md R71; log entry 2). -/
  program : List HostOp
  /-- The observations the host has made, latest first (00_scope.md R18). -/
  trace : List Obs
deriving DecidableEq, Repr

/-- Why the machine stops. The core has no traps and no failing completion (60_exceptions.md R230, 42_block_cipher.md
R181), so the one reason is the model's own. -/
inductive Fault where
  /-- Raised by an instruction at its completion when it is none that completes: the sequencer holds a pair `(op, rnd)` that
  no acceptance records (10_state.md R43, 42_block_cipher.md R180). Safe: no state that meets the invariant of
  Sys2Proof.Safety raises it (log entry 8). -/
  | noSuchPendingCommand
deriving DecidableEq, Repr

/-- What the model refuses. -/
inductive Refusal where
  /-- Raised by exec for an instruction that has no meaning yet. Safe. -/
  | notModelled (mnemonic : String)
  /-- Raised by a host access of 8 or 16 bits: "outside this spec, and a model refuses such an access" (20_memory.md R64,
  U6). Safe. -/
  | narrowAccess
  /-- Raised by an access of a second bus master: "outside this spec, and a model refuses it" (20_memory.md R74, U2). Safe. -/
  | secondBusMaster
  /-- Raised by an access whose physical address is not in the register window: what lies there is the platform's
  (20_memory.md R69; log entry 9). Safe. -/
  | outsideWindow
deriving DecidableEq, Repr

/-- The outcome of a step or a meaning. -/
abbrev Result := Host.Outcome State Fault Refusal

/-- The state after reset (70_reset_and_hazards.md R250). RK is unspecified there; its value here is log entry 4's. -/
def State.reset : State where
  ctrlRb := 0x00
  seq := .idle
  done := false
  keyValid := false
  err := false
  errCode := 0
  lastOp := 0
  len := 16
  doneIe := false
  errIe := false
  key := Four.fill 0x00000000
  din := Four.fill 0x00000000
  dout := Four.fill 0x00000000
  idx := 0
  work := Block.zero
  rk := Vector.replicate 44 (Four.fill 0x00)
  wait := 0
  draw := 0
  program := []
  trace := []

end Sys2Proof.Machine
end

