-- ==== Sys2Proof/Machine/Operands.lean ====
section
/-! DEFINITION. The operand forms: byte packing of a register word (00_scope.md R12), the block in a bank of four
registers (10_state.md R31, R32, R34), the offset decode and the register map (20_memory.md R61, R62, 10_state.md R20),
and the choice of a round key (R42). -/

namespace Sys2Proof.Machine

/-- `pack(w) = w.0<<24 | w.1<<16 | w.2<<8 | w.3` (00_scope.md R12). -/
def pack (w : Quad) : Word := w.x0 ++ w.x1 ++ w.x2 ++ w.x3

/-- `unpack(x) = (x[31:24], x[23:16], x[15:8], x[7:0])` (00_scope.md R12). -/
def unpack (x : Word) : Quad :=
  ⟨x.extractLsb' 24 8, x.extractLsb' 16 8, x.extractLsb' 8 8, x.extractLsb' 0 8⟩

/-- `b2w`: the four register words of sixteen bytes (00_scope.md R12). -/
def b2w (b : Block) : Four Word := b.map pack

/-- `w2b`, the inverse of `b2w` (00_scope.md R12). -/
def w2b (w : Four Word) : Block := w.map unpack

/-- The registers of the window (10_state.md R20). -/
inductive Reg where
  | ctrl
  | status
  | keylen
  | inten
  | key (k : Fin 4)
  | din (k : Fin 4)
  | dout (k : Fin 4)
  | rkidx
  | rkdata
  | id
  | reserved
deriving DecidableEq, Repr

/-- The register map (10_state.md R20) by word slot: slot `n` is offset `4n`. -/
def regAt (slot : BitVec 6) : Reg :=
  match slot.toNat with
  | 0 => .ctrl
  | 1 => .status
  | 2 => .keylen
  | 3 => .inten
  | 4 => .key 0
  | 5 => .key 1
  | 6 => .key 2
  | 7 => .key 3
  | 8 => .din 0
  | 9 => .din 1
  | 10 => .din 2
  | 11 => .din 3
  | 12 => .dout 0
  | 13 => .dout 1
  | 14 => .dout 2
  | 15 => .dout 3
  | 16 => .rkidx
  | 17 => .rkdata
  | 18 => .id
  | _ => .reserved

/-- The register a window offset reaches: the word slot `off[7:2]`; `off[1:0]` are ignored (20_memory.md R62). -/
def regOf (off : BitVec 8) : Reg := regAt (off.extractLsb' 2 6)

/-- The window offset of an access: `off = addr - AES_BASE` for a physical address in the window (20_memory.md R61), none
for one outside it. -/
def windowOffset (a : Address) : Option (BitVec 8) :=
  match a with
  | .window off => some off
  | .physical addr =>
    if Config.aesBase ≤ addr ∧ addr < Config.aesBase + 256 then some (BitVec.ofNat 8 (addr - Config.aesBase)) else none

/-- Round key `n`: the words `RK[4n], RK[4n+1], RK[4n+2], RK[4n+3]`, its four columns (10_state.md R42). -/
def roundKey (rk : Schedule) (n : Fin 11) : Block :=
  ⟨rk[4 * n.val], rk[4 * n.val + 1], rk[4 * n.val + 2], rk[4 * n.val + 3]⟩

end Sys2Proof.Machine
end

