-- ==== Sys2Proof/Machine/Transforms.lean ====
section
/-! DEFINITION. The round transforms as pure functions (41_round_transforms.md section 1). -/

namespace Sys2Proof.Machine

/-- `xtime(a) = ((a << 1) & 0xFF) ^ (a[7] == 1 ? 0x1B : 0x00)` (41_round_transforms.md R131). A byte keeps the low 8 bits
of a shift. -/
def xtime (a : Byte) : Byte := (a <<< 1) ^^^ (if a.getLsbD 7 then 0x1B else 0x00)

/-- `xtime` applied `i` times (41_round_transforms.md R133). -/
def xtimes (i : Nat) (a : Byte) : Byte :=
  match i with
  | 0 => a
  | n + 1 => xtime (xtimes n a)

/-- `gmul(a, b)`, the GF(2^8) product (41_round_transforms.md R133): used to state the matrices, never by a command. -/
def gmul (a b : Byte) : Byte :=
  (List.range 8).foldl (fun r i => if b.getLsbD i then r ^^^ xtimes i a else r) 0x00

/-- SubBytes (41_round_transforms.md R134). -/
def subBytes (s : Block) : Block := s.mapBytes sbox

/-- InvSubBytes (41_round_transforms.md R135). -/
def invSubBytes (s : Block) : Block := s.mapBytes invSbox

/-- ShiftRows: `s'[r][c] = s[r][(c + r) mod 4]` (41_round_transforms.md R136); the sum of column numbers is modulo 4. -/
def shiftRows (s : Block) : Block := Block.ofRC fun r c => s.at' r (c + r)

/-- InvShiftRows: `s'[r][c] = s[r][(c - r) mod 4]` (41_round_transforms.md R137). -/
def invShiftRows (s : Block) : Block := Block.ofRC fun r c => s.at' r (c - r)

/-- MixColumns of one column (41_round_transforms.md R138). -/
def mixColumn (a : Quad) : Quad :=
  let t := a.x0 ^^^ a.x1 ^^^ a.x2 ^^^ a.x3
  ⟨a.x0 ^^^ t ^^^ xtime (a.x0 ^^^ a.x1), a.x1 ^^^ t ^^^ xtime (a.x1 ^^^ a.x2),
    a.x2 ^^^ t ^^^ xtime (a.x2 ^^^ a.x3), a.x3 ^^^ t ^^^ xtime (a.x3 ^^^ a.x0)⟩

/-- MixColumns: each column on its own (41_round_transforms.md R139, R140). -/
def mixColumns (s : Block) : Block := s.map mixColumn

/-- InvMixColumns of one column: pre-whitening, then MixColumn (41_round_transforms.md R141). -/
def invMixColumn (a : Quad) : Quad :=
  let u := xtime (xtime (a.x0 ^^^ a.x2))
  let v := xtime (xtime (a.x1 ^^^ a.x3))
  mixColumn ⟨a.x0 ^^^ u, a.x1 ^^^ v, a.x2 ^^^ u, a.x3 ^^^ v⟩

/-- InvMixColumns: each column on its own (41_round_transforms.md R141). -/
def invMixColumns (s : Block) : Block := s.map invMixColumn

/-- AddRoundKey with round key `n`: `s'[r][c] = s[r][c] ^ RK[4n + c].r` (41_round_transforms.md R143). -/
def addRoundKey (s : Block) (rk : Schedule) (n : Fin 11) : Block := s.xor (roundKey rk n)

end Sys2Proof.Machine
end

