-- ==== Sys2Proof/Machine/KeySchedule.lean ====
section
/-! DEFINITION. Key normalisation and the key schedule as pure functions (40_key_schedule.md sections 1 and 2). A sequence
of sixteen bytes `K[0..15]` is a Block whose column `i` is `K[4i..4i+3]`. -/

namespace Sys2Proof.Machine

/-- The key register bytes `kreg[0..15]` of KEY0..KEY3 (40_key_schedule.md R110). -/
def keyBytes (key : Four Word) : Block := w2b key

/-- Key normalisation: `K[j] = (j < min(LEN, 16)) ? kreg[j] : 0x01`, byte `j = r + 4c` (40_key_schedule.md R111). -/
def normalizeKey (kreg : Block) (len : BitVec 5) : Block :=
  Block.ofRC fun r c => if r.val + 4 * c.val < min len.toNat 16 then kreg.at' r c else 0x01

/-- RotWord (40_key_schedule.md R114). -/
def rotWord (a : Quad) : Quad := ⟨a.x1, a.x2, a.x3, a.x0⟩

/-- SubWord (40_key_schedule.md R115). -/
def subWord (a : Quad) : Quad := a.map sbox

/-- Bytewise exclusive OR of two words. -/
def xorWord (a b : Quad) : Quad := Four.zipWith (· ^^^ ·) a b

/-- The round constant goes into the first byte only (40_key_schedule.md R116). -/
def addRcon (a : Quad) (c : Byte) : Quad := { a with x0 := a.x0 ^^^ c }

/-- `RCON[k]` (10_state.md R41): the table has the entries 0..10, and only 1..10 are read (40_key_schedule.md R116). -/
def rconAt (k : Nat) : Byte := if h : k < 11 then rcon[k] else 0x00

/-- `w[i]` from the words before it, for `i` in 4..43 (40_key_schedule.md R113): `w[i-4] ^ temp`, where `temp` is `w[i-1]`,
changed by RotWord, SubWord and the round constant when `i` is a multiple of 4. -/
def nextWord (i : Nat) (wMinus4 wMinus1 : Quad) : Quad :=
  let temp := if i % 4 = 0 then addRcon (subWord (rotWord wMinus1)) (rconAt (i / 4)) else wMinus1
  xorWord wMinus4 temp

/-- The first `4 + n` words of the schedule of `K` (40_key_schedule.md R113). -/
def expandTo (K : Block) (n : Nat) : Vector Quad (4 + n) :=
  match n with
  | 0 => #v[K.x0, K.x1, K.x2, K.x3]
  | m + 1 =>
    let w := expandTo K m
    w.push (nextWord (4 + m) w[m] w[4 + m - 1])

/-- The schedule `w[0..43]` of the normalised key `K` (40_key_schedule.md R113). -/
def expand (K : Block) : Schedule := expandTo K 40

/-- The schedule of the key in KEY0..KEY3 and KEYLEN (40_key_schedule.md R117). -/
def scheduleOf (key : Four Word) (len : BitVec 5) : Schedule := expand (normalizeKey (keyBytes key) len)

end Sys2Proof.Machine
end

