-- ==== Sys2Proof/Machine/Cipher.lean ====
section
/-! DEFINITION. The round controller as functions: one block encrypted and decrypted (42_block_cipher.md section 1). -/

namespace Sys2Proof.Machine

/-- One full round of encryption, `n` in 1..9 (42_block_cipher.md R171). -/
def encRound (rk : Schedule) (s : Block) (n : Fin 11) : Block :=
  addRoundKey (mixColumns (shiftRows (subBytes s))) rk n

/-- One full round of decryption, `n` in 9..1 (42_block_cipher.md R174). -/
def decRound (rk : Schedule) (s : Block) (n : Fin 11) : Block :=
  invMixColumns (addRoundKey (invSubBytes (invShiftRows s)) rk n)

/-- `encrypt_block` (42_block_cipher.md R171): the initial AddRoundKey, rounds 1..9, the final round without MixColumns. -/
def encryptBlock (blk : Block) (rk : Schedule) : Block :=
  let s := addRoundKey blk rk 0
  let s := [1, 2, 3, 4, 5, 6, 7, 8, 9].foldl (encRound rk) s
  addRoundKey (shiftRows (subBytes s)) rk 10

/-- `decrypt_block` (42_block_cipher.md R174). -/
def decryptBlock (blk : Block) (rk : Schedule) : Block :=
  let s := addRoundKey blk rk 10
  let s := [9, 8, 7, 6, 5, 4, 3, 2, 1].foldl (decRound rk) s
  addRoundKey (invSubBytes (invShiftRows s)) rk 0

end Sys2Proof.Machine
end

