-- ==== Sys2Proof/Machine/Flags.lean ====
section
/-! DEFINITION. The status bits (10_state.md R22 to R28, R44), the error codes (60_exceptions.md R220) and the interrupt
output (R226). The core has no arithmetic flags (10_state.md R47). -/

namespace Sys2Proof.Machine

/-- The errors the core records (60_exceptions.md R220). -/
inductive ErrCode where
  | illegalOp
  | busyWrite
  | badRound
deriving DecidableEq, Repr

/-- The code in STATUS.ERRCODE (60_exceptions.md R220). -/
def ErrCode.code (e : ErrCode) : BitVec 4 :=
  match e with
  | .illegalOp => 1
  | .busyWrite => 2
  | .badRound => 3

/-- STATUS.BUSY: 1 exactly when the sequencer's phase is BUSY (10_state.md R23, R43). -/
def State.busy (s : State) : Bool :=
  match s.seq with
  | .idle => false
  | .busy _ _ => true

/-- The level of the IRQ output, and STATUS.IRQ (10_state.md R28, R44, 60_exceptions.md R226). -/
def State.irq (s : State) : Bool := (s.done && s.doneIe) || (s.err && s.errIe)

/-- A bit as a word. -/
def bit (b : Bool) : Word := (BitVec.ofBool b).setWidth 32

/-- What a STATUS read returns (10_state.md R22). -/
def State.statusWord (s : State) : Word :=
  bit s.busy ||| (bit s.done <<< 1) ||| (bit s.keyValid <<< 2) ||| (bit s.err <<< 3) |||
    (s.errCode.setWidth 32 <<< 4) ||| (s.lastOp.setWidth 32 <<< 8) ||| (bit s.irq <<< 12)

end Sys2Proof.Machine
end

