-- ==== Sys2Proof/Machine/Ops.lean ====
section
/-! DEFINITION. The named operations over the state: whose move it is, recording an error and returning from one
(60_exceptions.md R221, R231), register reads and writes (10_state.md), acceptance and completion (42_block_cipher.md R180,
R181), and the reset event (70_reset_and_hazards.md R250, R251). -/

namespace Sys2Proof.Machine

/-- The two agents (00_scope.md R17). -/
inductive Agent where
  | host
  | core
deriving DecidableEq, Repr

/-- Whose move it is in the interleaving of host accesses and completions (20_memory.md R72): the core's when a command is
in flight and its free completion time has come, the host's otherwise (log entry 3). -/
def State.turn (s : State) : Agent :=
  match s.seq with
  | .idle => .host
  | .busy _ _ => if s.wait = 0 then .core else .host

/-! ### Errors -/

/-- `raise Error(code)` (60_exceptions.md R221): the first error is kept. This is the core's whole exception entry: it has
no traps (R230). -/
def State.raise (s : State) (e : ErrCode) : State :=
  if s.err then s else { s with err := true, errCode := e.code }

/-- The return from an error (60_exceptions.md R231): ERR and ERRCODE cleared. -/
def State.clearErr (s : State) : State := { s with err := false, errCode := 0 }

/-- DONE cleared (10_state.md R24). -/
def State.clearDone (s : State) : State := { s with done := false }

/-! ### Register reads -/

/-- What a read of register `r` returns (10_state.md R21, R22, R29 to R37). -/
def State.readReg (s : State) (r : Reg) : Word :=
  match r with
  | .ctrl => s.ctrlRb.setWidth 32
  | .status => s.statusWord
  | .keylen => s.len.setWidth 32
  | .inten => (bit s.errIe <<< 1) ||| bit s.doneIe
  | .key k => s.key.get k
  | .din k => s.din.get k
  | .dout k => s.dout.get k
  | .rkidx => s.idx.setWidth 32
  | .rkdata =>
    if h : s.keyValid = true ∧ s.idx.toNat ≤ 43 then pack (s.rk[s.idx.toNat]'(by omega)) else 0x00000000
  | .id => 0x41455331
  | .reserved => 0x00000000

/-- What a host read at a window offset returns (20_memory.md R62). -/
def State.readOff (s : State) (off : BitVec 8) : Word := s.readReg (regOf off)

/-! ### Register writes other than CTRL -/

/-- A STATUS write (10_state.md R22): bit 1 clears DONE, bit 3 clears ERR and ERRCODE, all other bits are ignored. -/
def State.writeStatus (s : State) (v : Word) : State :=
  let s1 := if v.getLsbD 1 then s.clearDone else s
  if v.getLsbD 3 then s1.clearErr else s1

/-- A KEYLEN write (10_state.md R29, 60_exceptions.md R222). -/
def State.writeKeylen (s : State) (v : Word) : State :=
  if s.busy then s.raise .busyWrite else { s with len := v.extractLsb' 0 5, keyValid := false }

/-- An INTEN write (10_state.md R30). -/
def State.writeInten (s : State) (v : Word) : State := { s with doneIe := v.getLsbD 0, errIe := v.getLsbD 1 }

/-- A KEYk write (10_state.md R31, 60_exceptions.md R222). -/
def State.writeKey (s : State) (k : Fin 4) (v : Word) : State :=
  if s.busy then s.raise .busyWrite else { s with key := s.key.set k v, keyValid := false }

/-- A DINk write (10_state.md R32, 60_exceptions.md R222). -/
def State.writeDin (s : State) (k : Fin 4) (v : Word) : State :=
  if s.busy then s.raise .busyWrite else { s with din := s.din.set k v }

/-- An RKIDX write (10_state.md R35). -/
def State.writeRkidx (s : State) (v : Word) : State := { s with idx := v.extractLsb' 0 6 }

/-! ### Acceptance -/

/-- The acceptance of a command other than NOP, after the checks (42_block_cipher.md R180): `CTRL_RB <- v[7:0]; BUSY <- 1;
DONE <- 0; phase <- BUSY; pending <- (v[3:0], v[7:4])`. The free completion time is drawn here (log entry 3). -/
def State.accept (s : State) (op rnd : BitVec 4) : State :=
  { s with ctrlRb := rnd ++ op, seq := .busy op rnd, done := false,
           wait := Config.latency s.draw op, draw := s.draw + 1 }

/-- NOP's acceptance: `CTRL_RB <- v[7:0]`, nothing else (42_block_cipher.md R185). -/
def State.acceptNop (s : State) (rnd : BitVec 4) : State := { s with ctrlRb := rnd ++ (0x0 : BitVec 4) }

/-! ### Completion -/

/-- The expansion step: `RK[i] <- w[i]` for all 44 words and `KEY_VALID <- 1` (40_key_schedule.md R117). -/
def State.expandKey (s : State) : State := { s with rk := scheduleOf s.key s.len, keyValid := true }

/-- The implicit expansion of ENC, DEC and ARK: only when KEY_VALID = 0 (40_key_schedule.md R119). -/
def State.ensureKey (s : State) : State := if s.keyValid then s else s.expandKey

/-- `S <- b; DOUT <- b2w(S)` (42_block_cipher.md R181). -/
def State.storeWork (s : State) (b : Block) : State := { s with work := b, dout := b2w b }

/-- The end of every completion: `BUSY <- 0; DONE <- 1; LAST_OP <- op; phase <- IDLE; pending <- none` (42_block_cipher.md
R181). -/
def State.finish (s : State) (op : BitVec 4) : State := { s with seq := .idle, done := true, lastOp := op }

/-! ### The life of a command -/

/-- One event in the life of an instruction. At the core's turn it is the completion of the command in flight
(42_block_cipher.md R181). At the host's turn it is a CTRL write: rejected with BUSY_WRITE while BUSY = 1, else `atWrite`
(R180; log entry 7). -/
def lifeCycle (atWrite atCompletion : State → Result) (s : State) : Result :=
  match s.turn with
  | .core => atCompletion s
  | .host => if s.busy then .next (s.raise .busyWrite) else atWrite s

/-- A completion with the effect `effect` of a command of opcode `op` (42_block_cipher.md R181). -/
def completeWith (op : BitVec 4) (effect : State → State) (s : State) : Result := .next ((effect s).finish op)

/-- A primitive command's effect: one transform of S, copied to DOUT (41_round_transforms.md section 2). -/
def State.transformWork (s : State) (f : Block → Block) : State := s.storeWork (f s.work)

/-- An instruction that never completes (NOP and the rejected encodings), found in the sequencer (log entry 8). -/
def noCompletion (_ : State) : Result := .fault .noSuchPendingCommand

/-! ### The reset event and the host's lists -/

/-- The reset event (70_reset_and_hazards.md R250, R251): every register at its reset value and the command in flight
abandoned. RK is unspecified: a free value (log entry 5). What the host still has to do and has observed is not the core's. -/
def State.resetEvent (s : State) : State :=
  { State.reset with rk := Config.rkAfterReset s.draw, draw := s.draw + 1, program := s.program, trace := s.trace }

/-- The host's remaining operations replaced. -/
def State.withProgram (s : State) (p : List HostOp) : State := { s with program := p }

/-- An observation recorded (00_scope.md R18). -/
def State.observe (s : State) (o : Obs) : State := { s with trace := o :: s.trace }

/-- A host turn has passed: while BUSY the completion comes one turn nearer (log entry 3). -/
def State.tick (s : State) : State :=
  match s.seq with
  | .idle => s
  | .busy _ _ => { s with wait := s.wait - 1 }

/-- `f` of the next state, if there is one. -/
def onNext (o : Result) (f : State → State) : Result :=
  match o with
  | .next s => .next (f s)
  | .fault r => .fault r
  | .refused r => .refused r

end Sys2Proof.Machine
end

