-- ==== Sys2Proof/Machine/BlockCommands.lean ====
section
/-! DEFINITION. The meanings of ENC, DEC, LOAD and NOP (42_block_cipher.md section 3). -/

namespace Sys2Proof.Machine

/-- NOP (42_block_cipher.md R185): it has no completion step. -/
def execNop (rnd : BitVec 4) (s : State) : Result :=
  lifeCycle (fun s => .next (s.acceptNop rnd)) noCompletion s

/-- ENC's effect: the implicit expansion, then `S <- encrypt_block(w2b(DIN), RK); DOUT <- b2w(S)` (42_block_cipher.md
R182). -/
def encEffect (s : State) : State :=
  let s := s.ensureKey
  s.storeWork (encryptBlock (w2b s.din) s.rk)

/-- ENC (42_block_cipher.md R182). -/
def execEnc (rnd : BitVec 4) (s : State) : Result :=
  lifeCycle (fun s => .next (s.accept 0x2 rnd)) (completeWith 0x2 encEffect) s

/-- DEC's effect: the implicit expansion, then `S <- decrypt_block(w2b(DIN), RK); DOUT <- b2w(S)` (42_block_cipher.md
R183). -/
def decEffect (s : State) : State :=
  let s := s.ensureKey
  s.storeWork (decryptBlock (w2b s.din) s.rk)

/-- DEC (42_block_cipher.md R183). -/
def execDec (rnd : BitVec 4) (s : State) : Result :=
  lifeCycle (fun s => .next (s.accept 0x3 rnd)) (completeWith 0x3 decEffect) s

/-- LOAD (42_block_cipher.md R184): `S <- w2b(DIN); DOUT <- b2w(S)`, and no expansion. -/
def execLoad (rnd : BitVec 4) (s : State) : Result :=
  lifeCycle (fun s => .next (s.accept 0x4 rnd)) (completeWith 0x4 fun s => s.storeWork (w2b s.din)) s

end Sys2Proof.Machine
end

