-- ==== Sys2Proof/Machine/KeyExpand.lean ====
section
/-! DEFINITION. The meaning of the key schedule command (40_key_schedule.md section 3). -/

namespace Sys2Proof.Machine

/-- KEYEXP (40_key_schedule.md R120): it always expands, and writes neither S nor DOUT. -/
def execKeyexp (rnd : BitVec 4) (s : State) : Result :=
  lifeCycle (fun s => .next (s.accept 0x1 rnd)) (completeWith 0x1 State.expandKey) s

end Sys2Proof.Machine
end

