-- ==== Sys2Proof/Machine/Primitive.lean ====
section
/-! DEFINITION. The meanings of the primitive commands that apply one transform to S (41_round_transforms.md section 2). -/

namespace Sys2Proof.Machine

/-- SUB (41_round_transforms.md R150): `S <- SubBytes(S); DOUT <- b2w(S)`. -/
def execSub (rnd : BitVec 4) (s : State) : Result :=
  lifeCycle (fun s => .next (s.accept 0x5 rnd)) (completeWith 0x5 fun s => s.transformWork subBytes) s

/-- ISUB (41_round_transforms.md R151): `S <- InvSubBytes(S); DOUT <- b2w(S)`. -/
def execIsub (rnd : BitVec 4) (s : State) : Result :=
  lifeCycle (fun s => .next (s.accept 0x6 rnd)) (completeWith 0x6 fun s => s.transformWork invSubBytes) s

/-- SHR (41_round_transforms.md R152): `S <- ShiftRows(S); DOUT <- b2w(S)`. -/
def execShr (rnd : BitVec 4) (s : State) : Result :=
  lifeCycle (fun s => .next (s.accept 0x7 rnd)) (completeWith 0x7 fun s => s.transformWork shiftRows) s

/-- ISHR (41_round_transforms.md R153): `S <- InvShiftRows(S); DOUT <- b2w(S)`. -/
def execIshr (rnd : BitVec 4) (s : State) : Result :=
  lifeCycle (fun s => .next (s.accept 0x8 rnd)) (completeWith 0x8 fun s => s.transformWork invShiftRows) s

/-- MIX (41_round_transforms.md R154): `S <- MixColumns(S); DOUT <- b2w(S)`. -/
def execMix (rnd : BitVec 4) (s : State) : Result :=
  lifeCycle (fun s => .next (s.accept 0x9 rnd)) (completeWith 0x9 fun s => s.transformWork mixColumns) s

/-- IMIX (41_round_transforms.md R155): `S <- InvMixColumns(S); DOUT <- b2w(S)`. -/
def execImix (rnd : BitVec 4) (s : State) : Result :=
  lifeCycle (fun s => .next (s.accept 0xA rnd)) (completeWith 0xA fun s => s.transformWork invMixColumns) s

/-- ARK's effect with round key `n`: the implicit expansion, then `S <- AddRoundKey(S, n); DOUT <- b2w(S)`
(41_round_transforms.md R156). -/
def arkEffect (n : Fin 11) (s : State) : State :=
  let s := s.ensureKey
  s.transformWork fun b => addRoundKey b s.rk n

/-- ARK's completion. A ROUND above 10 is never pending (60_exceptions.md R223), so it stops (log entry 8). -/
def arkComplete (rnd : BitVec 4) (s : State) : Result :=
  if h : rnd.toNat ≤ 10 then completeWith 0xB (arkEffect ⟨rnd.toNat, by omega⟩) s else noCompletion s

/-- ARK n (41_round_transforms.md R156): at acceptance a ROUND above 10 is rejected with BAD_ROUND. -/
def execArk (rnd : BitVec 4) (s : State) : Result :=
  lifeCycle (fun s => .next (if rnd.toNat ≤ 10 then s.accept 0xB rnd else s.raise .badRound)) (arkComplete rnd) s

end Sys2Proof.Machine
end

