-- ==== Sys2Proof/Machine/Rejected.lean ====
section
/-! DEFINITION. The meanings of the rejected encodings: a CTRL write of one records its error and changes nothing else
(60_exceptions.md R223, R224, 42_block_cipher.md R180). -/

namespace Sys2Proof.Machine

/-- A rejected CTRL write: `raise Error(code)`, nothing else (42_block_cipher.md R180, 60_exceptions.md R221). -/
def reject (e : ErrCode) (s : State) : Result := lifeCycle (fun s => .next (s.raise e)) noCompletion s

/-- OP 0xB with ROUND 11: BAD_ROUND (60_exceptions.md R223). -/
def execArkBadRound11 (s : State) : Result := reject .badRound s

/-- OP 0xB with ROUND 12: BAD_ROUND (60_exceptions.md R223). -/
def execArkBadRound12 (s : State) : Result := reject .badRound s

/-- OP 0xB with ROUND 13: BAD_ROUND (60_exceptions.md R223). -/
def execArkBadRound13 (s : State) : Result := reject .badRound s

/-- OP 0xB with ROUND 14: BAD_ROUND (60_exceptions.md R223). -/
def execArkBadRound14 (s : State) : Result := reject .badRound s

/-- OP 0xB with ROUND 15: BAD_ROUND (60_exceptions.md R223). -/
def execArkBadRound15 (s : State) : Result := reject .badRound s

/-- OP 0xC..0xF: ILLEGAL_OP (60_exceptions.md R224). The offending value is recorded nowhere (R220). -/
def execIllegal (_op _rnd : BitVec 4) (s : State) : Result := reject .illegalOp s

end Sys2Proof.Machine
end

