-- ==== Sys2Proof/Machine/Dispatch.lean ====
section
/-! DEFINITION. exec: one arm per instruction (spec/opcode_table.json), each its meaning. -/

namespace Sys2Proof.Machine

def exec (i : Instr) (s : State) : Host.Outcome State Fault Refusal :=
  match i with
  | .nop rnd => Sys2Proof.Machine.execNop rnd s
  | .keyexp rnd => Sys2Proof.Machine.execKeyexp rnd s
  | .enc rnd => Sys2Proof.Machine.execEnc rnd s
  | .dec rnd => Sys2Proof.Machine.execDec rnd s
  | .load rnd => Sys2Proof.Machine.execLoad rnd s
  | .sub rnd => Sys2Proof.Machine.execSub rnd s
  | .isub rnd => Sys2Proof.Machine.execIsub rnd s
  | .shr rnd => Sys2Proof.Machine.execShr rnd s
  | .ishr rnd => Sys2Proof.Machine.execIshr rnd s
  | .mix rnd => Sys2Proof.Machine.execMix rnd s
  | .imix rnd => Sys2Proof.Machine.execImix rnd s
  | .ark rnd => Sys2Proof.Machine.execArk rnd s
  | .arkBadRound11 => Sys2Proof.Machine.execArkBadRound11 s
  | .arkBadRound12 => Sys2Proof.Machine.execArkBadRound12 s
  | .arkBadRound13 => Sys2Proof.Machine.execArkBadRound13 s
  | .arkBadRound14 => Sys2Proof.Machine.execArkBadRound14 s
  | .arkBadRound15 => Sys2Proof.Machine.execArkBadRound15 s
  | .illegal op rnd => Sys2Proof.Machine.execIllegal op rnd s

end Sys2Proof.Machine
end

