-- ==== Sys2Proof/Machine/Bus.lean ====
section
/-! DEFINITION. The host's turn: what each host operation does to the core (20_memory.md, 30_encoding.md R94). A CTRL write
is the one write that runs an instruction. -/

namespace Sys2Proof.Machine

/-- A host write of `v` to register `r` (10_state.md R20 to R37). Writes to read-only and reserved offsets are ignored and
record no error (R33, R34, R36, R37). -/
def State.writeReg (s : State) (r : Reg) (v : Word) : Result :=
  match r with
  | .ctrl => exec (decode v) s
  | .status => .next (s.writeStatus v)
  | .keylen => .next (s.writeKeylen v)
  | .inten => .next (s.writeInten v)
  | .key k => .next (s.writeKey k v)
  | .din k => .next (s.writeDin k v)
  | .dout _ => .next s
  | .rkidx => .next (s.writeRkidx v)
  | .rkdata => .next s
  | .id => .next s
  | .reserved => .next s

/-- A host write at a window offset (20_memory.md R62). -/
def State.writeOff (s : State) (off : BitVec 8) (v : Word) : Result := s.writeReg (regOf off) v

/-- A host read at a window offset: the value is observed, and the core is not changed (20_memory.md R67). -/
def State.hostRead (s : State) (off : BitVec 8) : State := s.observe (.read off (s.readOff off))

/-- A read of STATUS as WAIT makes it (30_encoding.md R94). -/
def statusOffset : BitVec 8 := 0x04

/-- The access of a word at a resolved address, or the refusal (20_memory.md R64, R69). -/
def onWindow (size : AccessSize) (a : Address) (f : BitVec 8 → Result) : Result :=
  match size with
  | .byte => .refused .narrowAccess
  | .half => .refused .narrowAccess
  | .word =>
    match windowOffset a with
    | some off => f off
    | none => .refused .outsideWindow

/-- The effect of the host operation `op`, whose successors in program order are `rest`. A loop (WAIT, or waiting for IRQ)
stays at the head of the program until its condition holds (30_encoding.md R94, 20_memory.md R73). -/
def hostOp (op : HostOp) (rest : List HostOp) (s : State) : Result :=
  match op with
  | .read size a => onWindow size a fun off => .next ((s.withProgram rest).hostRead off)
  | .write size a v => onWindow size a fun off => (s.withProgram rest).writeOff off v
  | .wait =>
    .next ((s.withProgram (if (s.readOff statusOffset).getLsbD 0 then .wait :: rest else rest)).hostRead statusOffset)
  | .sampleIrq => .next ((s.withProgram rest).observe (.irq s.irq))
  | .waitIrq => .next ((s.withProgram (if s.irq then rest else .waitIrq :: rest)).observe (.irq s.irq))
  | .reset => .next (s.withProgram rest).resetEvent
  | .otherMaster => .refused .secondBusMaster

/-- The host's turn (20_memory.md R71, R72): its next operation, or nothing if it has none. While BUSY the completion comes
one turn nearer (70_reset_and_hazards.md R261; log entry 3); an acceptance draws the completion time, which starts to run
with the next turn. -/
def hostTurn (s : State) : Result :=
  match s.program with
  | [] => .next s.tick
  | op :: rest => onNext (hostOp op rest s) fun t => if s.busy then t.tick else t

/-- The core's turn: the completion of the pending command (42_block_cipher.md R181). While idle the core has none
(60_exceptions.md R238). -/
def coreTurn (s : State) : Result :=
  match s.seq with
  | .idle => .next s
  | .busy op rnd => exec (instrOfFields op rnd) s

end Sys2Proof.Machine
end

