-- ==== Sys2Proof/Machine/Step.lean ====
section
/-! DEFINITION. One step of the machine: one event of the interleaving of host accesses and completions (20_memory.md R72). -/

namespace Sys2Proof.Machine

/-- One step: the core's completion if its turn has come, the host's next operation otherwise (20_memory.md R72). -/
def step (s : State) : Host.Outcome State Fault Refusal :=
  match s.turn with
  | .core => coreTurn s
  | .host => hostTurn s

/-- The word `w` (its `nbits` low bits) placed where the machine takes its next instruction from: a host write of it to CTRL
at the head of the host's program (10_state.md R46, log entry 2). If the core's completion is due, the host moves first. -/
def State.withFetchWord (s : State) (nbits w : Nat) : State :=
  { s with program := .write .word (.window 0x00) (BitVec.ofNat 32 (w % 2 ^ nbits)) :: s.program,
           wait := match s.turn with
                   | .core => 1
                   | .host => s.wait }

end Sys2Proof.Machine
end

