-- ==== Sys2Proof/Machine/HostProgram.lean ====
section
/-! DEFINITION. Host-program notation: the base instructions W and R and the pseudo-instructions CMD, WRKEY, WRDIN, RDOUT
and CLRST with their exact expansions (30_encoding.md R94). WAIT is HostOp.wait. -/

namespace Sys2Proof.Machine

/-- `W off, value` (30_encoding.md R94). -/
def hostW (off : BitVec 8) (v : Word) : HostOp := .write .word (.window off) v

/-- `R off` (30_encoding.md R94). -/
def hostR (off : BitVec 8) : HostOp := .read .word (.window off)

/-- `CMD m`: `W CTRL, enc(m)` (30_encoding.md R94). -/
def cmd (i : Instr) : HostOp := hostW 0x00 (encode i)

/-- `WRKEY k0, k1, k2, k3, len` (30_encoding.md R94). -/
def wrkey (k : Four Word) (len : Word) : List HostOp :=
  [hostW 0x10 k.x0, hostW 0x14 k.x1, hostW 0x18 k.x2, hostW 0x1C k.x3, hostW 0x08 len]

/-- `WRDIN d0, d1, d2, d3` (30_encoding.md R94). -/
def wrdin (d : Four Word) : List HostOp := [hostW 0x20 d.x0, hostW 0x24 d.x1, hostW 0x28 d.x2, hostW 0x2C d.x3]

/-- `RDOUT` (30_encoding.md R94). -/
def rdout : List HostOp := [hostR 0x30, hostR 0x34, hostR 0x38, hostR 0x3C]

/-- `CLRST`: `W STATUS, 0x0000000A` (30_encoding.md R94). -/
def clrst : HostOp := hostW 0x04 0x0000000A

end Sys2Proof.Machine
end

