-- ==== Sys2Proof/Machine/Text.lean ====
section
/-! DEFINITION. Text as the host codec takes it (43_host_message_codec.md R202, R204, R210): the UTF-8 encoding of a text and
the lossy decoding of a byte sequence under a policy. The spec names UTF-8 and does not define it: its form is PRESUMED
(RFC 3629; log entry 11). -/

namespace Sys2Proof.Machine

/-- The UTF-8 encoding of one character (log entry 11). -/
def utf8Char (c : Char) : List Byte :=
  let n := c.toNat
  if n < 0x80 then [BitVec.ofNat 8 n]
  else if n < 0x800 then [BitVec.ofNat 8 (0xC0 + n / 64), BitVec.ofNat 8 (0x80 + n % 64)]
  else if n < 0x10000 then
    [BitVec.ofNat 8 (0xE0 + n / 4096), BitVec.ofNat 8 (0x80 + n / 64 % 64), BitVec.ofNat 8 (0x80 + n % 64)]
  else
    [BitVec.ofNat 8 (0xF0 + n / 262144), BitVec.ofNat 8 (0x80 + n / 4096 % 64), BitVec.ofNat 8 (0x80 + n / 64 % 64),
      BitVec.ofNat 8 (0x80 + n % 64)]

/-- The UTF-8 encoding of a text (43_host_message_codec.md R204). -/
def utf8 (t : List Char) : List Byte := t.flatMap utf8Char

/-- The six bits a continuation byte carries, if it is one. -/
def continuation (b : Byte) : Option Nat :=
  if 0x80 ≤ b.toNat ∧ b.toNat < 0xC0 then some (b.toNat - 0x80) else none

/-- The character of scalar value `n`, if it is one and is not shorter written than with this many bytes. -/
def charOf (least n : Nat) : Option Char := if least ≤ n ∧ n.isValidChar then some (Char.ofNat n) else none

/-- The character at the head of a byte sequence, with the bytes after it, if the head is well-formed UTF-8. -/
def utf8Head (bs : List Byte) : Option (Char × List Byte) :=
  match bs with
  | [] => none
  | b0 :: r0 =>
    if b0.toNat < 0x80 then some (Char.ofNat b0.toNat, r0)
    else if 0xC0 ≤ b0.toNat ∧ b0.toNat < 0xE0 then
      match r0 with
      | b1 :: r1 => do
        let c1 ← continuation b1
        let c ← charOf 0x80 ((b0.toNat - 0xC0) * 64 + c1)
        pure (c, r1)
      | _ => none
    else if 0xE0 ≤ b0.toNat ∧ b0.toNat < 0xF0 then
      match r0 with
      | b1 :: b2 :: r2 => do
        let c1 ← continuation b1
        let c2 ← continuation b2
        let c ← charOf 0x800 ((b0.toNat - 0xE0) * 4096 + c1 * 64 + c2)
        pure (c, r2)
      | _ => none
    else if 0xF0 ≤ b0.toNat ∧ b0.toNat < 0xF8 then
      match r0 with
      | b1 :: b2 :: b3 :: r3 => do
        let c1 ← continuation b1
        let c2 ← continuation b2
        let c3 ← continuation b3
        let c ← charOf 0x10000 ((b0.toNat - 0xF0) * 262144 + c1 * 4096 + c2 * 64 + c3)
        pure (c, r3)
      | _ => none
    else none

/-- What one invalid sequence becomes: `replace` substitutes it, `ignore` drops it (43_host_message_codec.md R210). -/
def invalidText (p : TextPolicy) : List Char :=
  match p with
  | .replace => Config.replacementText
  | .ignore => []

/-- How many bytes at the head of a byte sequence pass before a well-formed character begins: the bytes that belong to no
character (43_host_message_codec.md R210). -/
def invalidRun (bs : List Byte) : Nat :=
  match bs with
  | [] => 0
  | b :: rest => if (utf8Head (b :: rest)).isSome then 0 else invalidRun rest + 1

/-- How many bytes the invalid sequence at the head takes in: at least one, and only bytes that belong to no character. How
a run of such bytes divides into sequences is a free value (log entry 11). -/
def invalidLength (bs : List Byte) : Nat := min (1 + Config.invalidSpan bs) (invalidRun bs)

/-- Lossy decoding of at most `fuel` sequences (43_host_message_codec.md R210): a well-formed character is kept, and an
invalid sequence is replaced or dropped, and nothing else with it. -/
def decodeUpTo (p : TextPolicy) (fuel : Nat) (bs : List Byte) : List Char :=
  match fuel with
  | 0 => []
  | n + 1 =>
    match bs with
    | [] => []
    | _ :: _ =>
      match utf8Head bs with
      | some (c, rest) => c :: decodeUpTo p n rest
      | none => invalidText p ++ decodeUpTo p n (bs.drop (invalidLength bs))

/-- `text_decode`: the lossy decoding of a whole byte sequence; it never fails (43_host_message_codec.md R210). -/
def textDecode (p : TextPolicy) (bs : List Byte) : List Char := decodeUpTo p bs.length bs

end Sys2Proof.Machine
end

