-- ==== Sys2Proof/Machine/Codec.lean ====
section
/-! DEFINITION. The host message codec (43_host_message_codec.md): the contract of a host driver around the core, as the
host programs it runs and the byte sequences it computes. Nothing here is hardware (00_scope.md R6). -/

namespace Sys2Proof.Machine

/-! ### Key provisioning -/

/-- `kb'[j]`: the key's byte `j` for `j < min(n, 16)`, 0x00 otherwise (43_host_message_codec.md R200). -/
def keyFill (kb : List Byte) (j : Nat) : Byte := if j < min kb.length 16 then kb.getD j 0x00 else 0x00

/-- The words written to KEY0..KEY3 (43_host_message_codec.md R200). -/
def keyWords (kb : List Byte) : Four Word :=
  Four.ofFn fun k => pack (Four.ofFn fun j => keyFill kb (4 * k.val + j.val))

/-- Key provisioning: KEY0..KEY3, then `KEYLEN <- min(n, 16)` (43_host_message_codec.md R200, R201). -/
def provision (kb : List Byte) : List HostOp := wrkey (keyWords kb) (BitVec.ofNat 32 (min kb.length 16))

/-- The schedule the core computes for the provisioned key (40_key_schedule.md R117). -/
def keySchedule (kb : List Byte) : Schedule := scheduleOf (keyWords kb) (BitVec.ofNat 5 (min kb.length 16))

/-! ### Blocks -/

/-- The pad length `p = 16 - (L mod 16)` (43_host_message_codec.md R203). -/
def padLength (L : Nat) : Nat := 16 - L % 16

/-- The message followed by `p` bytes each equal to `p` (43_host_message_codec.md R203). -/
def padMessage (m : List Byte) : List Byte :=
  m ++ List.replicate (padLength m.length) (BitVec.ofNat 8 (padLength m.length))

/-- The block `P[16i .. 16i+15]` (43_host_message_codec.md R205). -/
def blockAt (P : List Byte) (i : Nat) : Block := Block.ofRC fun r c => P.getD (16 * i + (r.val + 4 * c.val)) 0x00

/-- The blocks of a byte sequence, `i` in 0 .. len/16 - 1 (43_host_message_codec.md R205). -/
def blocksOf (P : List Byte) : List Block := (List.range (P.length / 16)).map (blockAt P)

/-! ### Encode -/

/-- The accesses that put one block through a block command: `WRDIN; CMD; WAIT; RDOUT` (43_host_message_codec.md R205). -/
def blockProgram (i : Instr) (b : Block) : List HostOp := wrdin (b2w b) ++ [cmd i, .wait] ++ rdout

/-- The host program of `host_encrypt(m, kb)` (43_host_message_codec.md R205). -/
def encryptProgram (m kb : List Byte) : List HostOp :=
  provision kb ++ (blocksOf (padMessage m)).flatMap (blockProgram (.enc 0))

/-- The ciphertext of `m` under the key `kb`: each block on its own (43_host_message_codec.md R205, R213). -/
def encryptMessage (m kb : List Byte) : List Byte :=
  (blocksOf (padMessage m)).flatMap fun b => (encryptBlock b (keySchedule kb)).bytes

/-- The words the host read from DOUT0..DOUT3, earliest first, out of its observations. -/
def doutReads (trace : List Obs) : List Word :=
  trace.reverse.filterMap fun o =>
    match o with
    | .read off v =>
      match regOf off with
      | .dout _ => some v
      | _ => none
    | .irq _ => none

/-- The bytes of a list of words in sequence order (`w2b`, 00_scope.md R12). -/
def wordBytes (ws : List Word) : List Byte := ws.flatMap fun w => (unpack w).toList

/-! ### Decode -/

/-- Why a decoding fails (43_host_message_codec.md R208, R209). -/
inductive CodecFailure where
  | malformedLength
  | badPadding
deriving DecidableEq, Repr

/-- The typed result of a decoding (43_host_message_codec.md R211). -/
inductive CodecResult (α : Type) where
  | ok (a : α)
  | fail (reason : CodecFailure)
deriving DecidableEq, Repr

/-- A ciphertext length the codec takes: positive and a multiple of 16 (43_host_message_codec.md R208). -/
def lengthOk (C : List Byte) : Bool := C.length != 0 && C.length % 16 == 0

/-- The host program of `host_decrypt(C, kb)`: none for a malformed length (43_host_message_codec.md R207, R208). -/
def decryptProgram (C kb : List Byte) : List HostOp :=
  if lengthOk C then provision kb ++ (blocksOf C).flatMap (blockProgram (.dec 0)) else []

/-- Un-padding: the last byte is the pad length; outside 1..16 it fails, and only it is examined
(43_host_message_codec.md R207, R209). -/
def unpad (P : List Byte) : CodecResult (List Byte) :=
  let p := (P.getD (P.length - 1) 0x00).toNat
  if p < 1 ∨ 16 < p then .fail .badPadding else .ok (P.take (P.length - p))

/-- `host_decrypt` before text decoding (43_host_message_codec.md R207). -/
def decryptBytes (C kb : List Byte) : CodecResult (List Byte) :=
  if lengthOk C then unpad ((blocksOf C).flatMap fun b => (decryptBlock b (keySchedule kb)).bytes)
  else .fail .malformedLength

/-- `host_decrypt(C, kb)` under a text policy (43_host_message_codec.md R207, R210). -/
def decryptMessage (p : TextPolicy) (C kb : List Byte) : CodecResult (List Char) :=
  match decryptBytes C kb with
  | .ok bs => .ok (textDecode p bs)
  | .fail r => .fail r

/-- `host_decrypt(C, kb)` under TEXT_DECODE_POLICY (43_host_message_codec.md R207, 00_scope.md R9(b)). -/
def hostDecrypt (C kb : List Byte) : CodecResult (List Char) := decryptMessage Config.textDecodePolicy C kb

end Sys2Proof.Machine
end

