-- ==== Sys2Proof/Safety.lean ====
section
/-! DEFINITION. What the statements are about: the invariant of the machine, the legal pending commands, the host operations
in scope, and states that differ only in what the host cannot see. -/

namespace Sys2Proof.Machine

/-- A command that has a completion: OP 0x1..0xB, with ROUND 0..10 for ARK (30_encoding.md R86, R87). -/
def commandPair (op rnd : BitVec 4) : Bool :=
  decide (1 ≤ op.toNat ∧ op.toNat ≤ 11 ∧ (op = 0xB → rnd.toNat ≤ 10))

/-- KEY_VALID = 1 only when RK is the expansion of the current key (10_state.md R25, 40_key_schedule.md R118). -/
abbrev KeyCacheCurrent (s : State) : Prop := s.keyValid = true → s.rk = scheduleOf s.key s.len

/-- DOUT shows S (10_state.md R34, R38). -/
abbrev DoutShowsWork (s : State) : Prop := s.dout = b2w s.work

/-- ERRCODE is 0 without an error and one of the three codes with one (10_state.md R26, 60_exceptions.md R220). -/
abbrev ErrCodeLegal (s : State) : Prop :=
  (s.err = false → s.errCode = 0) ∧ (s.err = true → 1 ≤ s.errCode.toNat ∧ s.errCode.toNat ≤ 3)

/-- LAST_OP is 0 or a command's opcode, and DONE = 1 only after a completion (10_state.md R24, R27). -/
abbrev LastOpLegal (s : State) : Prop := s.lastOp.toNat ≤ 11 ∧ (s.done = true → s.lastOp ≠ 0)

/-- A busy sequencer holds an accepted command, which CTRL reads back and which has cleared DONE (10_state.md R43,
42_block_cipher.md R180). -/
def sequencerLegal (s : State) : Bool :=
  match s.seq with
  | .idle => true
  | .busy op rnd => commandPair op rnd && !s.done && s.ctrlRb == rnd ++ op

/-- The invariant of the machine. -/
abbrev Inv (s : State) : Prop :=
  KeyCacheCurrent s ∧ DoutShowsWork s ∧ ErrCodeLegal s ∧ LastOpLegal s ∧ sequencerLegal s = true

/-- A safe step: it does not fault. -/
def SafeStep (s : State) : Prop := ∀ f, step s ≠ .fault f

/-- An operation the model never refuses: a word access to the window, a loop, a sample or a reset. -/
def HostOp.inScope (op : HostOp) : Bool :=
  match op with
  | .read size a => size == .word && (windowOffset a).isSome
  | .write size a _ => size == .word && (windowOffset a).isSome
  | .wait => true
  | .sampleIrq => true
  | .waitIrq => true
  | .reset => true
  | .otherMaster => false

/-- The next host operation writes `v` to register `r`. -/
def WritesNext (s : State) (r : Reg) (v : Word) : Prop :=
  ∃ a off rest, s.program = .write .word a v :: rest ∧ windowOffset a = some off ∧ regOf off = r

/-- The next host operation is the reset event. -/
def ResetsNext (s : State) : Prop := ∃ rest, s.program = .reset :: rest

/-- The step is the completion of a pending command of opcode `op`. -/
def Completing (s : State) (op : BitVec 4) : Prop := s.turn = .core ∧ ∃ rnd, s.seq = .busy op rnd

/-- Two states that differ at most in RK, and not there while KEY_VALID = 1 (10_state.md R42, U3). -/
def SameButHiddenRk (s t : State) : Prop := { s with rk := t.rk } = t ∧ (s.keyValid = true → s.rk = t.rk)

/-- Outcomes of one kind, their next states differing at most in hidden RK. -/
def OutcomeSameButHiddenRk (o o' : Result) : Prop :=
  match o, o' with
  | .next s, .next t => SameButHiddenRk s t
  | .fault f, .fault f' => f = f'
  | .refused r, .refused r' => r = r'
  | _, _ => False

end Sys2Proof.Machine
end

