-- ==== Sys2Proof/Certificates/Slice0/Obligations.lean ====
section
/-! DEFINITION. The statements for the provers. Each docstring names the rule of spec/ it is about. Where a statement names
`wait`, `draw` or a free value of Config, it holds for every value of it (log entries 3 and 5). -/

open Sys2Proof Sys2Proof.Machine

/-! ### Encoding -/

/-- 30_encoding.md R92, R93: no bit of an encoding is dropped, for every command and rejected encoding. -/
def Obligations.DecodeOfEncodeIsTheInstruction : Prop :=
  ∀ i : Instr, i.wf = true → decode (encode i) = i

/-- 30_encoding.md R88: bits [31:8] change nothing, neither what a value decodes to nor what a CTRL write of it does (so
neither its acceptance nor CTRL_RB), and the encoder writes 0 there. Beside it (R91, R93), every value decodes to a term an
encoding exists for, and encode of decode is the value with its reserved bits 0. -/
def Obligations.EncodeOfDecodeIsTheLowByte : Prop :=
  ∀ v : Word, (decode v).wf = true ∧ encode (decode v) = v &&& 0x000000FF ∧ decode v = decode (v &&& 0x000000FF) ∧
    ∀ s : State, s.writeReg .ctrl v = s.writeReg .ctrl (v &&& 0x000000FF)

/-- 30_encoding.md R86, R89, R93: words written out from the opcode map. -/
def Obligations.WordsOfTheOpcodeMapDecode : Prop :=
  decode 0x00000000 = .nop 0 ∧ decode 0x00000001 = .keyexp 0 ∧ decode 0x00000002 = .enc 0 ∧ decode 0x00000003 = .dec 0 ∧
  decode 0x00000004 = .load 0 ∧ decode 0x00000005 = .sub 0 ∧ decode 0x00000006 = .isub 0 ∧ decode 0x00000007 = .shr 0 ∧
  decode 0x00000008 = .ishr 0 ∧ decode 0x00000009 = .mix 0 ∧ decode 0x0000000A = .imix 0 ∧ decode 0x0000000B = .ark 0 ∧
  decode 0x000000AB = .ark 10 ∧ decode 0x000000BB = .arkBadRound11 ∧ decode 0x000000FB = .arkBadRound15 ∧
  decode 0x0000000C = .illegal 0xC 0 ∧ decode 0xFFFFFF3F = .illegal 0xF 3 ∧ decode 0x12345672 = .enc 7

/-! ### The step and the instruction -/

/-- A step runs the decoded instruction. A host write of `v` to an offset 0..3 (20_memory.md R62) at the host's turn runs
`decode v`; around it the step takes the write off the program and, while BUSY, moves the completion one turn nearer. At the
core's turn the step runs the pending command. A word placed by `withFetchWord` in an idle state is run by the next step. -/
def Obligations.StepRunsTheDecodedInstruction : Prop :=
  (∀ (s : State) (v : Word) (a : Address) (off : BitVec 8) (rest : List HostOp), s.turn = .host →
    s.program = .write .word a v :: rest → windowOffset a = some off → off.toNat < 4 →
    step s = onNext (exec (decode v) (s.withProgram rest)) fun t => if s.busy then t.tick else t) ∧
  (∀ (s : State) (op rnd : BitVec 4), s.turn = .core → s.seq = .busy op rnd → step s = exec (instrOfFields op rnd) s) ∧
  (∀ (s : State) (w : Nat), s.busy = false → step (s.withFetchWord 32 w) = exec (decode (BitVec.ofNat 32 w)) s)

/-- 42_block_cipher.md R180, acceptance of the eleven commands while idle: CTRL_RB takes v[7:0], BUSY and the pending pair
are set, DONE is cleared, and nothing else of the core changes. The completion time is free (log entry 3). -/
def Obligations.CommandIsAcceptedWhenIdle : Prop :=
  ∀ (i : Instr) (s : State), i.wf = true → s.busy = false → commandPair i.op i.round = true →
    ∃ n : Nat, exec i s = .next { s with ctrlRb := i.round ++ i.op, seq := .busy i.op i.round, done := false,
                                          wait := n, draw := s.draw + 1 }

/-- 42_block_cipher.md R185: NOP writes CTRL_RB and nothing else. -/
def Obligations.NopWritesOnlyTheReadback : Prop :=
  ∀ (rnd : BitVec 4) (s : State), s.busy = false →
    exec (.nop rnd) s = .next { s with ctrlRb := rnd ++ (0x0 : BitVec 4) }

/-- 60_exceptions.md R223, R224: while idle, OP 0xB with ROUND 11..15 records BAD_ROUND (3) and an illegal opcode ILLEGAL_OP
(1), the first error being kept (R221), and nothing else changes. For the terms no encoding exists for, ARK n with n above 10
(41_round_transforms.md R156) and `illegal` with an opcode below 12, the same is the model's choice, log entry 15. -/
def Obligations.RejectedEncodingsRecordTheirErrorOnly : Prop :=
  ∀ s : State, s.busy = false →
    (∀ i : Instr, (i = .arkBadRound11 ∨ i = .arkBadRound12 ∨ i = .arkBadRound13 ∨ i = .arkBadRound14 ∨ i = .arkBadRound15 ∨
        ∃ n : BitVec 4, 10 < n.toNat ∧ i = .ark n) →
      exec i s = .next (if s.err then s else { s with err := true, errCode := 3 })) ∧
    ∀ op rnd : BitVec 4,
      exec (.illegal op rnd) s = .next (if s.err then s else { s with err := true, errCode := 1 })

/-- 60_exceptions.md R228, R222: at the host's turn while BUSY every CTRL write records BUSY_WRITE (2) whatever it holds,
because the busy check comes first, and changes nothing else. -/
def Obligations.CtrlWriteWhileBusyIsBusyWrite : Prop :=
  ∀ (i : Instr) (s : State), s.turn = .host → s.busy = true →
    exec i s = .next (if s.err then s else { s with err := true, errCode := 2 })

/-! ### What each command does at its completion -/

/-- 40_key_schedule.md R120: KEYEXP writes RK and KEY_VALID, and neither S nor DOUT. -/
def Obligations.KeyexpCompletes : Prop :=
  ∀ (rnd : BitVec 4) (s : State), s.turn = .core →
    exec (.keyexp rnd) s = .next { s with rk := expand (normalizeKey (w2b s.key) s.len), keyValid := true,
                                          seq := .idle, done := true, lastOp := 0x1 }

/-- 42_block_cipher.md R182, R183 with 40_key_schedule.md R119: the result of ENC and of DEC is a function of DIN, KEY and
KEYLEN alone, whether the schedule was cached or not; RK ends as the current expansion, and nothing else changes. -/
def Obligations.EncAndDecCompleteWithTheCipherOfDin : Prop :=
  ∀ (rnd : BitVec 4) (s : State), KeyCacheCurrent s → s.turn = .core →
    let RK := expand (normalizeKey (w2b s.key) s.len)
    let ends (op : BitVec 4) (S : Block) : Result :=
      .next { s with rk := RK, keyValid := true, work := S, dout := b2w S, seq := .idle, done := true, lastOp := op }
    exec (.enc rnd) s = ends 0x2 (encryptBlock (w2b s.din) RK) ∧
    exec (.dec rnd) s = ends 0x3 (decryptBlock (w2b s.din) RK)

/-- 42_block_cipher.md R184: LOAD makes S the bytes of DIN, and DOUT becomes equal to DIN; no expansion runs. -/
def Obligations.LoadCompletesWithDoutEqualToDin : Prop :=
  ∀ (rnd : BitVec 4) (s : State), s.turn = .core →
    exec (.load rnd) s = .next { s with work := w2b s.din, dout := s.din, seq := .idle, done := true, lastOp := 0x4 }

/-- 41_round_transforms.md R150 to R155: each primitive applies its transform to S, row by row or byte by byte as R134 to
R141 say, copies S to DOUT, and changes nothing else. -/
def Obligations.PrimitivesTransformTheWorkingState : Prop :=
  ∀ (rnd : BitVec 4) (s : State), s.turn = .core →
    let ends (op : BitVec 4) (S : Block) : Result :=
      .next { s with work := S, dout := b2w S, seq := .idle, done := true, lastOp := op }
    exec (.sub rnd) s = ends 0x5 (Block.ofRC fun r c => sbox (s.work.at' r c)) ∧
    exec (.isub rnd) s = ends 0x6 (Block.ofRC fun r c => invSbox (s.work.at' r c)) ∧
    exec (.shr rnd) s = ends 0x7 (Block.ofRC fun r c => s.work.at' r (c + r)) ∧
    exec (.ishr rnd) s = ends 0x8 (Block.ofRC fun r c => s.work.at' r (c - r)) ∧
    exec (.mix rnd) s = ends 0x9 (Four.ofFn fun c => mixColumn (s.work.get c)) ∧
    exec (.imix rnd) s = ends 0xA (Four.ofFn fun c => invMixColumn (s.work.get c))

/-- 41_round_transforms.md R156, R143: ARK n for n in 0..10 XORs byte (r, c) of S with byte r of RK[4n + c], under the
current key's schedule, copies S to DOUT, and changes nothing else but RK and KEY_VALID. -/
def Obligations.ArkCompletesWithTheRoundKeyAdded : Prop :=
  ∀ (rnd : BitVec 4) (s : State), KeyCacheCurrent s → s.turn = .core → ∀ h : rnd.toNat ≤ 10,
    let RK := expand (normalizeKey (w2b s.key) s.len)
    let S := Block.ofRC fun r c => s.work.at' r c ^^^ (RK[4 * rnd.toNat + c.val]'(by omega)).get r
    exec (.ark rnd) s = .next { s with rk := RK, keyValid := true, work := S, dout := b2w S,
                                       seq := .idle, done := true, lastOp := 0xB }

/-- 42_block_cipher.md R181, 60_exceptions.md R225: from a legal state a completion step always answers a next state; it
ends the command (BUSY 0, DONE 1, LAST_OP the opcode), records no error, and every register a host reads but STATUS, DOUT
and RKDATA reads as before. -/
def Obligations.CompletionEndsTheCommandAndRecordsNoError : Prop :=
  ∀ (s : State) (op rnd : BitVec 4), sequencerLegal s = true → s.turn = .core → s.seq = .busy op rnd →
    ∃ t, step s = .next t ∧ t.seq = .idle ∧ t.done = true ∧ t.lastOp = op ∧ t.err = s.err ∧ t.errCode = s.errCode ∧
      t.program = s.program ∧ t.trace = s.trace ∧
      ∀ r : Reg, r ≠ .status → (∀ k, r ≠ .dout k) → r ≠ .rkdata → t.readReg r = s.readReg r

/-! ### Register reads and writes -/

/-- 10_state.md R22, R28 and 60_exceptions.md R226: the fields of a STATUS read, bit by bit. -/
def Obligations.StatusReadShowsItsFields : Prop :=
  ∀ s : State,
    let v := s.readReg .status
    v.getLsbD 0 = s.busy ∧ v.getLsbD 1 = s.done ∧ v.getLsbD 2 = s.keyValid ∧ v.getLsbD 3 = s.err ∧
    v.extractLsb' 4 4 = s.errCode ∧ v.extractLsb' 8 4 = s.lastOp ∧
    v.getLsbD 12 = ((s.done && s.doneIe) || (s.err && s.errIe)) ∧ v.extractLsb' 13 19 = 0

/-- 20_memory.md R62 under the map of 10_state.md R20: `off[1:0]` are ignored, and each slot reaches its register. -/
def Obligations.OffsetReachesItsWordSlot : Prop :=
  ∀ off : BitVec 8,
    regOf off = regOf (off &&& 0xFC) ∧ regOf off = regAt (off.extractLsb' 2 6) ∧
    (off.toNat / 4 = 0 → regOf off = .ctrl) ∧ (off.toNat / 4 = 1 → regOf off = .status) ∧
    (off.toNat / 4 = 2 → regOf off = .keylen) ∧ (off.toNat / 4 = 3 → regOf off = .inten) ∧
    (∀ k : Fin 4, off.toNat / 4 = 4 + k.val → regOf off = .key k) ∧
    (∀ k : Fin 4, off.toNat / 4 = 8 + k.val → regOf off = .din k) ∧
    (∀ k : Fin 4, off.toNat / 4 = 12 + k.val → regOf off = .dout k) ∧
    (off.toNat / 4 = 16 → regOf off = .rkidx) ∧ (off.toNat / 4 = 17 → regOf off = .rkdata) ∧
    (off.toNat / 4 = 18 → regOf off = .id) ∧ (19 ≤ off.toNat / 4 → regOf off = .reserved)

/-- 10_state.md R36: RKDATA shows RK[IDX] only when KEY_VALID = 1 and IDX <= 43; its writes are ignored. -/
def Obligations.RkdataIsGatedByKeyValid : Prop :=
  (∀ s : State, ∀ h : s.idx.toNat ≤ 43, s.keyValid = true → s.readReg .rkdata = pack s.rk[s.idx.toNat]) ∧
  (∀ s : State, ¬(s.keyValid = true ∧ s.idx.toNat ≤ 43) → s.readReg .rkdata = 0x00000000) ∧
  (∀ (s : State) (v : Word), s.writeReg .rkdata v = .next s)

/-- 10_state.md R33, R37, R34: ID is constant, reserved offsets 0x4C..0xFC read 0, and writes to ID, to reserved offsets and
to DOUT change nothing and record no error. -/
def Obligations.ReadOnlyAndReservedWritesAreIgnored : Prop :=
  ∀ (s : State) (v : Word),
    s.readReg .id = 0x41455331 ∧ (∀ off : BitVec 8, 0x4C ≤ off.toNat → s.readOff off = 0x00000000) ∧
    s.writeReg .id v = .next s ∧ (∀ k, s.writeReg (.dout k) v = .next s) ∧
    (∀ off : BitVec 8, 0x4C ≤ off.toNat → s.writeOff off v = .next s)

/-- 10_state.md R29, R31, R32, R25: an operand write while idle is read back, clears KEY_VALID for KEY and KEYLEN even when
the value is the old one, and changes nothing else. -/
def Obligations.OperandWritesWhenIdleAreReadBack : Prop :=
  ∀ (s : State) (v : Word), s.busy = false →
    (∀ k : Fin 4, ∃ t, s.writeReg (.key k) v = .next t ∧ t.readReg (.key k) = v ∧
      (∀ j, j ≠ k → t.readReg (.key j) = s.readReg (.key j)) ∧ t.keyValid = false ∧
      { t with key := s.key, keyValid := s.keyValid } = s) ∧
    (∃ t, s.writeReg .keylen v = .next t ∧ t.readReg .keylen = v &&& 0x1F ∧ t.keyValid = false ∧
      { t with len := s.len, keyValid := s.keyValid } = s) ∧
    (∀ k : Fin 4, ∃ t, s.writeReg (.din k) v = .next t ∧ t.readReg (.din k) = v ∧
      (∀ j, j ≠ k → t.readReg (.din j) = s.readReg (.din j)) ∧ { t with din := s.din } = s)

/-- 60_exceptions.md R222: while BUSY, at the host's turn, writes to CTRL, KEY, KEYLEN and DIN are discarded with BUSY_WRITE
(the first error being kept, R221), and writes to INTEN, RKIDX and STATUS are accepted, raise nothing, and leave the command
in flight and its operands alone. -/
def Obligations.WritesWhileBusy : Prop :=
  ∀ (s : State) (v : Word), s.turn = .host → s.busy = true →
    (∀ r : Reg, (r = .ctrl ∨ r = .keylen ∨ (∃ k, r = .key k) ∨ ∃ k, r = .din k) →
      s.writeReg r v = .next (if s.err then s else { s with err := true, errCode := 2 })) ∧
    s.writeReg .inten v = .next { s with doneIe := v.getLsbD 0, errIe := v.getLsbD 1 } ∧
    s.writeReg .rkidx v = .next { s with idx := v.extractLsb' 0 6 } ∧
    s.writeReg .status v = .next { s with done := s.done && !v.getLsbD 1, err := s.err && !v.getLsbD 3,
                                          errCode := if v.getLsbD 3 then 0 else s.errCode }

/-- 10_state.md R22, 60_exceptions.md R231: a STATUS write clears DONE by bit 1 and ERR with ERRCODE by bit 3, busy or not;
10_state.md R30, R35: INTEN and RKIDX writes read back in their fields. Nothing else changes. -/
def Obligations.StatusIntenAndRkidxWrites : Prop :=
  ∀ (s : State) (v : Word),
    s.writeReg .status v = .next { s with done := s.done && !v.getLsbD 1, err := s.err && !v.getLsbD 3,
                                          errCode := if v.getLsbD 3 then 0 else s.errCode } ∧
    (∃ t, s.writeReg .inten v = .next t ∧ t.readReg .inten = v &&& 0x3 ∧
      { t with doneIe := s.doneIe, errIe := s.errIe } = s) ∧
    (∃ t, s.writeReg .rkidx v = .next t ∧ t.readReg .rkidx = v &&& 0x3F ∧ { t with idx := s.idx } = s)

/-- 60_exceptions.md R221: `raise Error(code)` records the first error and changes nothing else. -/
def Obligations.RaiseKeepsTheFirstError : Prop :=
  ∀ (s : State) (e : ErrCode),
    (s.err = true → s.raise e = s) ∧
    (s.err = false → (s.raise e).err = true ∧ (s.raise e).errCode = e.code ∧
      { s.raise e with err := s.err, errCode := s.errCode } = s)

/-- 20_memory.md R67, R71: a host read at the host's turn returns the register's value and has no side effect: only the
host's own program and observations change, and the completion of a command in flight comes one turn nearer. -/
def Obligations.HostReadHasNoSideEffect : Prop :=
  ∀ (s : State) (a : Address) (off : BitVec 8) (rest : List HostOp), s.turn = .host →
    s.program = .read .word a :: rest → windowOffset a = some off →
    step s = .next { s with program := rest, trace := .read off (s.readReg (regOf off)) :: s.trace,
                            wait := if s.busy then s.wait - 1 else s.wait }

/-- 30_encoding.md R94: WAIT reads STATUS and goes on only when bit 0 of the value is 0. 00_scope.md R18, 20_memory.md R73,
60_exceptions.md R226: a sample of the IRQ output shows `(DONE & DONE_IE) | (ERR & ERR_IE)`, and the wait for IRQ goes on
only when that level is 1. None of them changes the core; the two IRQ operations and the countdown of the completion are the
model's, log entries 14 and 3. -/
def Obligations.WaitAndIrqOperationsOfTheHost : Prop :=
  ∀ (s : State) (rest : List HostOp), s.turn = .host →
    let level := (s.done && s.doneIe) || (s.err && s.errIe)
    let goesOn (p : List HostOp) (o : Obs) : Result :=
      .next { s with program := p, trace := o :: s.trace, wait := if s.busy then s.wait - 1 else s.wait }
    (s.program = .wait :: rest →
      step s = goesOn (if s.busy then .wait :: rest else rest) (.read 0x04 s.statusWord)) ∧
    (s.program = .sampleIrq :: rest → step s = goesOn rest (.irq level)) ∧
    (s.program = .waitIrq :: rest → step s = goesOn (if level then rest else .waitIrq :: rest) (.irq level))

/-- 20_memory.md R61: AES_BASE is a multiple of 256, an address of the window is its offset from it, and no other address
reaches the core. -/
def Obligations.PhysicalAddressesOfTheWindow : Prop :=
  Config.aesBase % 256 = 0 ∧
  (∀ off : BitVec 8, windowOffset (.physical (Config.aesBase + off.toNat)) = some off) ∧
  (∀ addr : Nat, windowOffset (.physical addr) = none ↔ addr < Config.aesBase ∨ Config.aesBase + 256 ≤ addr)

/-- 20_memory.md R64, R74: 8-bit and 16-bit accesses and accesses of a second bus master are refused; so is an access outside
the window (the model's choice, log entry 9); and a step is refused in no other case. -/
def Obligations.OnlyAccessesOutsideTheInterfaceAreRefused : Prop :=
  (∀ (s : State) (size : AccessSize) (a : Address) (v : Word) (rest : List HostOp), s.turn = .host → size ≠ .word →
    (s.program = .read size a :: rest ∨ s.program = .write size a v :: rest) → step s = .refused .narrowAccess) ∧
  (∀ (s : State) (rest : List HostOp), s.turn = .host → s.program = .otherMaster :: rest →
    step s = .refused .secondBusMaster) ∧
  (∀ (s : State) (a : Address) (v : Word) (rest : List HostOp), s.turn = .host → windowOffset a = none →
    (s.program = .read .word a :: rest ∨ s.program = .write .word a v :: rest) → step s = .refused .outsideWindow) ∧
  (∀ (s : State) (r : Refusal), step s = .refused r →
    s.turn = .host ∧ ∃ op rest, s.program = op :: rest ∧ op.inScope = false ∧
      (r = .narrowAccess ∨ r = .secondBusMaster ∨ r = .outsideWindow))

/-! ### Reset -/

/-- 70_reset_and_hazards.md R250 and 10_state.md R20: what every register reads after reset, S, the IRQ output and the
sequencer. -/
def Obligations.ResetValuesOfTheRegisters : Prop :=
  let s := State.reset
  s.readReg .ctrl = 0x00000000 ∧ s.readReg .status = 0x00000000 ∧ s.readReg .keylen = 0x00000010 ∧
  s.readReg .inten = 0x00000000 ∧ (∀ k, s.readReg (.key k) = 0x00000000) ∧ (∀ k, s.readReg (.din k) = 0x00000000) ∧
  (∀ k, s.readReg (.dout k) = 0x00000000) ∧ s.readReg .rkidx = 0x00000000 ∧ s.readReg .rkdata = 0x00000000 ∧
  s.readReg .id = 0x41455331 ∧ s.readReg .reserved = 0x00000000 ∧ s.irq = false ∧ s.seq = .idle ∧
  (∀ r c, s.work.at' r c = 0x00)

/-- 70_reset_and_hazards.md R250, R251: the reset event, busy or idle, gives every register its reset value and abandons the
command in flight. RK is any content (log entry 5). That the event is one operation of the host's program, taken at a host
turn, and that the host's own lists go on, is the model's choice, log entry 6. -/
def Obligations.ResetEventAbandonsTheCommand : Prop :=
  ∀ (s : State) (rest : List HostOp), s.turn = .host → s.program = .reset :: rest →
    ∃ (RK : Schedule) (n d : Nat), step s = .next
      { ctrlRb := 0, seq := .idle, done := false, keyValid := false, err := false, errCode := 0, lastOp := 0, len := 16,
        doneIe := false, errIe := false, key := ⟨0, 0, 0, 0⟩, din := ⟨0, 0, 0, 0⟩, dout := ⟨0, 0, 0, 0⟩, idx := 0,
        work := Block.zero, rk := RK, wait := n, draw := d, program := rest, trace := s.trace }

/-! ### The invariant -/

/-- The invariant holds at reset. -/
def Obligations.InvariantHoldsAtReset : Prop := Inv State.reset

/-- Every step keeps the invariant: KEY_VALID = 1 only with the current schedule (40_key_schedule.md R118), DOUT shows S
(10_state.md R34, R38), ERRCODE and LAST_OP legal (R26, R27), a busy sequencer holds the accepted command (R43). -/
def Obligations.EveryStepKeepsTheInvariant : Prop :=
  ∀ s t : State, Inv s → step s = .next t → Inv t

/-- 40_key_schedule.md R118: whenever KEY_VALID = 1, RK is the expansion of the current key; it holds at reset and every step
keeps it, with no other assumption on the state. -/
def Obligations.KeyValidMeansTheScheduleIsCurrent : Prop :=
  KeyCacheCurrent State.reset ∧ ∀ s t : State, KeyCacheCurrent s → step s = .next t → KeyCacheCurrent t

/-- 42_block_cipher.md R181, 60_exceptions.md R225, R230: no step of a legal state faults. -/
def Obligations.NoStepOfALegalStateFaults : Prop :=
  ∀ s : State, Inv s → SafeStep s

/-! ### What a step can change, over all instructions and accesses -/

/-- 10_state.md R23: BUSY rises only by the acceptance of a command, and falls only by a completion or the reset event. -/
def Obligations.BusyChangesOnlyByAcceptanceAndCompletion : Prop :=
  ∀ s t : State, step s = .next t →
    (s.busy = false → t.busy = true →
      ∃ v, WritesNext s .ctrl v ∧ commandPair (opField v) (roundField v) = true ∧ t.seq = .busy (opField v) (roundField v)) ∧
    (s.busy = true → t.busy = false → (∃ op, Completing s op) ∨ (s.turn = .host ∧ ResetsNext s))

/-- 10_state.md R24: DONE rises exactly by completions, and falls only by an acceptance, a STATUS write with bit 1 or the
reset event. -/
def Obligations.DoneChangesOnlyByTheseEvents : Prop :=
  ∀ s t : State, step s = .next t →
    (∀ op, Completing s op → t.done = true) ∧
    (s.done = false → t.done = true → ∃ op, Completing s op) ∧
    (s.done = true → t.done = false → s.turn = .host ∧
      (ResetsNext s ∨ (∃ v, WritesNext s .status v ∧ v.getLsbD 1 = true) ∨
        (s.busy = false ∧ ∃ v, WritesNext s .ctrl v ∧ commandPair (opField v) (roundField v) = true)))

/-- 10_state.md R25: KEY_VALID is cleared by reset, by an accepted KEY write and by an accepted KEYLEN write, whatever value
they write; only the completion of KEYEXP, ENC, DEC or ARK sets it. -/
def Obligations.KeyValidChangesOnlyByTheseEvents : Prop :=
  ∀ s t : State, step s = .next t →
    (s.keyValid = false → t.keyValid = true →
      ∃ op, Completing s op ∧ (op = 0x1 ∨ op = 0x2 ∨ op = 0x3 ∨ op = 0xB)) ∧
    (s.keyValid = true → t.keyValid = false → s.turn = .host ∧
      (ResetsNext s ∨ (s.busy = false ∧ ∃ v, WritesNext s .keylen v ∨ ∃ k, WritesNext s (.key k) v))) ∧
    (s.busy = false → (∃ v, WritesNext s .keylen v ∨ ∃ k, WritesNext s (.key k) v) → t.keyValid = false)

/-- 10_state.md R34, R38, R42: S and DOUT change only by the completion of a command other than KEYEXP, RK only by an
expansion (the completion of KEYEXP, or of ENC, DEC or ARK with KEY_VALID = 0, 40_key_schedule.md R119), or by the reset
event. -/
def Obligations.ResultsChangeOnlyAtCompletion : Prop :=
  ∀ s t : State, step s = .next t →
    (t.work ≠ s.work ∨ t.dout ≠ s.dout → (∃ op, Completing s op ∧ op ≠ 0x1) ∨ (s.turn = .host ∧ ResetsNext s)) ∧
    (t.rk ≠ s.rk →
      (∃ op, Completing s op ∧ (op = 0x1 ∨ (s.keyValid = false ∧ (op = 0x2 ∨ op = 0x3 ∨ op = 0xB)))) ∨
      (s.turn = .host ∧ ResetsNext s))

/-- 10_state.md R29, R31, R32: KEY, KEYLEN and DIN change only by a host write to them while idle, or by the reset event;
no command writes them. -/
def Obligations.OperandsChangeOnlyByHostWritesWhenIdle : Prop :=
  ∀ s t : State, step s = .next t →
    (t.key ≠ s.key → s.turn = .host ∧ (ResetsNext s ∨ (s.busy = false ∧ ∃ k v, WritesNext s (.key k) v))) ∧
    (t.len ≠ s.len → s.turn = .host ∧ (ResetsNext s ∨ (s.busy = false ∧ ∃ v, WritesNext s .keylen v))) ∧
    (t.din ≠ s.din → s.turn = .host ∧ (ResetsNext s ∨ (s.busy = false ∧ ∃ k v, WritesNext s (.din k) v)))

/-- 20_memory.md R75, 70_reset_and_hazards.md R262: while BUSY no host operation but the reset event changes the command in
flight, its operands, the results or KEY_VALID. -/
def Obligations.OperandsAreStableWhileBusy : Prop :=
  ∀ s t : State, step s = .next t → s.busy = true → s.turn = .host → ¬ResetsNext s →
    t.seq = s.seq ∧ t.key = s.key ∧ t.len = s.len ∧ t.din = s.din ∧ t.work = s.work ∧ t.rk = s.rk ∧
    t.keyValid = s.keyValid ∧ t.dout = s.dout ∧ t.lastOp = s.lastOp ∧ t.ctrlRb = s.ctrlRb

/-- 60_exceptions.md R220, R225: an error is recorded only by a host write, with its code: BUSY_WRITE for CTRL, KEY, KEYLEN
and DIN while busy, ILLEGAL_OP for OP 0xC..0xF and BAD_ROUND for OP 0xB with ROUND above 10 while idle. -/
def Obligations.ErrorsComeOnlyFromTheseWrites : Prop :=
  ∀ s t : State, step s = .next t → s.err = false → t.err = true →
    s.turn = .host ∧ ∃ r v, WritesNext s r v ∧
      ((s.busy = true ∧ (r = .ctrl ∨ r = .keylen ∨ (∃ k, r = .key k) ∨ ∃ k, r = .din k) ∧ t.errCode = 2) ∨
        (s.busy = false ∧ r = .ctrl ∧ 12 ≤ (opField v).toNat ∧ t.errCode = 1) ∨
        (s.busy = false ∧ r = .ctrl ∧ opField v = 0xB ∧ 10 < (roundField v).toNat ∧ t.errCode = 3))

/-- 60_exceptions.md R228, R231: a recorded error keeps its code over every step, until a STATUS write with bit 3 or the reset
event clears it. -/
def Obligations.TheFirstErrorIsKeptUntilCleared : Prop :=
  ∀ s t : State, step s = .next t → s.err = true →
    (t.err = true ∧ t.errCode = s.errCode) ∨
    (s.turn = .host ∧ t.err = false ∧ t.errCode = 0 ∧
      (ResetsNext s ∨ ∃ v, WritesNext s .status v ∧ v.getLsbD 3 = true))

/-- 10_state.md R27, R21: LAST_OP changes only at a completion, to its opcode, and CTRL_RB only at a CTRL write that
is accepted (while idle, of NOP or of a legal command), to v[7:0]; the reset event aside. -/
def Obligations.LastOpAndReadbackFollowTheCommands : Prop :=
  ∀ s t : State, step s = .next t → ¬(s.turn = .host ∧ ResetsNext s) →
    (t.lastOp ≠ s.lastOp → Completing s t.lastOp) ∧
    (t.ctrlRb ≠ s.ctrlRb → s.busy = false ∧ ∃ v, WritesNext s .ctrl v ∧
      (opField v = 0x0 ∨ commandPair (opField v) (roundField v) = true) ∧ t.ctrlRb = v.extractLsb' 0 8)

/-- 60_exceptions.md R227: the IRQ output rises only in a step that sets DONE, records an error or writes INTEN. -/
def Obligations.IrqRisesOnlyWithItsSources : Prop :=
  ∀ s t : State, step s = .next t → s.irq = false → t.irq = true →
    (∃ op, Completing s op) ∨ (s.err = false ∧ t.err = true) ∨ ∃ v, WritesNext s .inten v

/-! ### Runs -/

/-- 70_reset_and_hazards.md R261: an accepted command completes after finitely many steps, whatever the free completion time
and whatever the host does within the interface (no reset), with no host action required. The bound `s.wait + 1` is the
model's own countdown, log entry 3. -/
def Obligations.EveryAcceptedCommandCompletes : Prop :=
  ∀ (s : State) (op rnd : BitVec 4), s.seq = .busy op rnd → sequencerLegal s = true →
    (∀ o ∈ s.program, o.inScope = true ∧ o ≠ .reset) →
    ∃ t, Sys2Proof.core.run (s.wait + 1) s = .next t ∧ t.seq = .idle ∧ t.done = true ∧ t.lastOp = op

/-- 42_block_cipher.md R182 with 20_memory.md R72(a) and 30_encoding.md R94: from any legal idle state the host program
`CMD ENC; WAIT; RDOUT` ends, whatever the completion time, and its last four reads return the cipher of DIN under KEY and
KEYLEN. -/
def Obligations.HostReadsTheCipherAfterWait : Prop :=
  ∀ (s : State) (rest : List HostOp), KeyCacheCurrent s → s.busy = false →
    s.program = [cmd (.enc 0), .wait] ++ rdout ++ rest →
    let D := b2w (encryptBlock (w2b s.din) (expand (normalizeKey (w2b s.key) s.len)))
    ∃ n t, Sys2Proof.core.run n s = .next t ∧ t.program = rest ∧ t.busy = false ∧
      t.trace.take 4 = [.read 0x3C D.x3, .read 0x38 D.x2, .read 0x34 D.x1, .read 0x30 D.x0]

/-- 10_state.md R42, U3: RK while KEY_VALID = 0 is unobservable: runs of two states that differ only there stay so, with
the same observations. -/
def Obligations.HiddenScheduleIsUnobservable : Prop :=
  ∀ (n : Nat) (s t : State), SameButHiddenRk s t →
    OutcomeSameButHiddenRk (Sys2Proof.core.run n s) (Sys2Proof.core.run n t)

/-- 42_block_cipher.md R176, 40_key_schedule.md R119: two ENC, or two DEC, completions with equal DIN and equal normalised key
give equal S, DOUT and RK, whatever ran before. -/
def Obligations.BlockResultsDependOnlyOnBlockAndKey : Prop :=
  ∀ (s s' t t' : State) (op rnd rnd' : BitVec 4), (op = 0x2 ∨ op = 0x3) → KeyCacheCurrent s → KeyCacheCurrent s' →
    s.turn = .core → s'.turn = .core → s.seq = .busy op rnd → s'.seq = .busy op rnd' →
    s.din = s'.din → normalizeKey (w2b s.key) s.len = normalizeKey (w2b s'.key) s'.len →
    step s = .next t → step s' = .next t' →
    t.work = t'.work ∧ t.dout = t'.dout ∧ t.rk = t'.rk

/-! ### The cipher -/

/-- 42_block_cipher.md R175: decryption undoes encryption and encryption undoes decryption, for every block and every
schedule. -/
def Obligations.DecryptUndoesEncrypt : Prop :=
  ∀ (b : Block) (RK : Schedule), decryptBlock (encryptBlock b RK) RK = b ∧ encryptBlock (decryptBlock b RK) RK = b

/-- 41_round_transforms.md R144: the inverse laws of the transforms, and the commuting of bytewise maps with row shifts. -/
def Obligations.InverseLawsOfTheTransforms : Prop :=
  ∀ s : Block,
    invSubBytes (subBytes s) = s ∧ subBytes (invSubBytes s) = s ∧
    invShiftRows (shiftRows s) = s ∧ shiftRows (invShiftRows s) = s ∧
    invMixColumns (mixColumns s) = s ∧ mixColumns (invMixColumns s) = s ∧
    (∀ (RK : Schedule) (n : Fin 11), addRoundKey (addRoundKey s RK n) RK n = s) ∧
    subBytes (shiftRows s) = shiftRows (subBytes s) ∧ invSubBytes (invShiftRows s) = invShiftRows (invSubBytes s)

/-- 41_round_transforms.md R138, R142: MixColumn is the circulant [02 03 01 01] and InvMixColumn the circulant [0e 0b 0d 09],
indices modulo 4, on every column. -/
def Obligations.MixColumnsAreTheStandardMatrices : Prop :=
  ∀ (a : Quad) (r : Fin 4),
    (mixColumn a).get r = gmul 0x02 (a.get r) ^^^ gmul 0x03 (a.get (r + 1)) ^^^ a.get (r + 2) ^^^ a.get (r + 3) ∧
    (invMixColumn a).get r =
      gmul 0x0e (a.get r) ^^^ gmul 0x0b (a.get (r + 1)) ^^^ gmul 0x0d (a.get (r + 2)) ^^^ gmul 0x09 (a.get (r + 3))

/-- 41_round_transforms.md R132: the listed values and chain, linearity, bijectivity, and the product by 0x02 modulo
x^8 + x^4 + x^3 + x + 1, as a reduction by 0x11B and through gmul. -/
def Obligations.XtimeIsALinearBijection : Prop :=
  xtime 0x00 = 0x00 ∧ xtime 0x01 = 0x02 ∧ xtime 0x7f = 0xfe ∧ xtime 0x80 = 0x1b ∧ xtime 0xff = 0xe5 ∧
  xtime 0x57 = 0xae ∧ xtime 0xae = 0x47 ∧ xtime 0x47 = 0x8e ∧ xtime 0x8e = 0x07 ∧
  (∀ a b : Byte, xtime (a ^^^ b) = xtime a ^^^ xtime b) ∧ Function.Bijective xtime ∧
  ∀ a : Byte, gmul a 0x02 = xtime a ∧
    (xtime a).setWidth 9 = (a.setWidth 9 <<< 1) ^^^ (if a.getLsbD 7 then 0x11B#9 else 0x000#9)

/-- 10_state.md R39, R40, R41: SBOX is the affine map of the GF(2^8) inverse (0 for 0x00), INV_SBOX undoes it both ways, and
RCON follows its recurrence. -/
def Obligations.TablesFollowTheirConstruction : Prop :=
  (∃ inv : Byte → Byte, inv 0x00 = 0x00 ∧ (∀ x : Byte, x ≠ 0x00 → gmul x (inv x) = 0x01) ∧
    ∀ (x : Byte) (i : Fin 8), (sbox x).getLsbD i.val = ((inv x).getLsbD i.val ^^ (inv x).getLsbD ((i.val + 4) % 8) ^^
      (inv x).getLsbD ((i.val + 5) % 8) ^^ (inv x).getLsbD ((i.val + 6) % 8) ^^ (inv x).getLsbD ((i.val + 7) % 8) ^^
      (0x63 : Byte).getLsbD i.val)) ∧
  (∀ x : Byte, invSbox (sbox x) = x ∧ sbox (invSbox x) = x) ∧
  rcon[1] = 0x01 ∧ ∀ i : Fin 9, rcon[i.val + 2] = xtime rcon[i.val + 1]

/-- 40_key_schedule.md R112: the corner cases of normalisation. -/
def Obligations.NormalisationCornerCases : Prop :=
  (∀ kreg : Block, ∀ r c, (normalizeKey kreg 0).at' r c = 0x01) ∧
  (∀ (kreg : Block) (r c : Fin 4), (normalizeKey kreg 15).at' r c = if r = 3 ∧ c = 3 then 0x01 else kreg.at' r c) ∧
  (∀ (kreg : Block) (len : BitVec 5), 16 ≤ len.toNat → normalizeKey kreg len = kreg) ∧
  (∀ (kreg kreg' : Block) (len : BitVec 5),
    (∀ r c : Fin 4, r.val + 4 * c.val < len.toNat → kreg.at' r c = kreg'.at' r c) →
    normalizeKey kreg len = normalizeKey kreg' len) ∧
  (∀ (kreg : Block) (len : BitVec 5), len.toNat < 16 →
    (∀ r c : Fin 4, r.val + 4 * c.val = len.toNat → kreg.at' r c = 0x01) →
    normalizeKey kreg (len + 1) = normalizeKey kreg len) ∧
  (∀ (s : State) (v : Word), s.busy = false → ∃ t, s.writeReg .keylen v = .next t ∧ t.len = v.extractLsb' 0 5) ∧
  (0x25 : Word).extractLsb' 0 5 = 5#5

/-- 40_key_schedule.md R113 (with RotWord, SubWord and the round constant of R114 to R116): the first four words are the
columns of K, and every later word is the word four back XOR the previous word, rotated, substituted and given the round
constant when its index is a multiple of 4. -/
def Obligations.ScheduleFollowsTheRecurrence : Prop :=
  ∀ K : Block,
    (∀ c : Fin 4, (expand K)[c.val] = K.get c) ∧
    ∀ n : Fin 40,
      let prev := (expand K)[n.val + 3]
      let temp : Quad :=
        if (n.val + 4) % 4 = 0 then
          ⟨sbox prev.x1 ^^^ rcon[(n.val + 4) / 4]'(by omega), sbox prev.x2, sbox prev.x3, sbox prev.x0⟩
        else prev
      (expand K)[n.val + 4] = Four.ofFn fun r => ((expand K)[n.val]).get r ^^^ temp.get r

/-- 00_scope.md R12: pack puts byte 0 in bits [31:24], unpack is its inverse, b2w packs bytes 4k..4k+3 into word k, and w2b is
its inverse. -/
def Obligations.PackingIsBigEndianAndInvertible : Prop :=
  (∀ w : Quad, pack w = (w.x0.setWidth 32 <<< 24) ||| (w.x1.setWidth 32 <<< 16) ||| (w.x2.setWidth 32 <<< 8) |||
    w.x3.setWidth 32) ∧
  (∀ w : Quad, unpack (pack w) = w) ∧ (∀ x : Word, pack (unpack x) = x) ∧
  (∀ (b : Block) (k : Fin 4), (b2w b).get k = pack ⟨b.at' 0 k, b.at' 1 k, b.at' 2 k, b.at' 3 k⟩) ∧
  (∀ b : Block, w2b (b2w b) = b) ∧ ∀ d : Four Word, b2w (w2b d) = d

/-- 70_reset_and_hazards.md R254 (the key and block of reset, BC-3) and the vectors BC-1 and w[43] of KS-1 of
95_test_vectors.md: known answers. -/
def Obligations.KnownAnswers : Prop :=
  b2w (encryptBlock Block.zero (scheduleOf (Four.fill 0) 16)) = ⟨0x66e94bd4, 0xef8a2c3b, 0x884cfa59, 0xca342b2e⟩ ∧
  b2w (encryptBlock (w2b ⟨0x00112233, 0x44556677, 0x8899aabb, 0xccddeeff⟩)
    (scheduleOf ⟨0x00010203, 0x04050607, 0x08090a0b, 0x0c0d0e0f⟩ 16)) =
      ⟨0x69c4e0d8, 0x6a7b0430, 0xd8cdb780, 0x70b4c55a⟩ ∧
  pack (scheduleOf ⟨0x2b7e1516, 0x28aed2a6, 0xabf71588, 0x09cf4f3c⟩ 16)[43] = 0xb6630ca6

/-! ### The host message codec -/

/-- 43_host_message_codec.md R203, R206: the pad length is in 1..16, the padded length a multiple of 16, and the ciphertext
length `16 * (floor(L / 16) + 1)`. -/
def Obligations.CiphertextLength : Prop :=
  ∀ m kb : List Byte, 1 ≤ padLength m.length ∧ padLength m.length ≤ 16 ∧ (padMessage m).length % 16 = 0 ∧
    (encryptMessage m kb).length = 16 * (m.length / 16 + 1)

/-- 43_host_message_codec.md R205, R200: from any idle state the host program of `host_encrypt` ends, whatever the completion
times, and what it read from DOUT is the ciphertext. -/
def Obligations.EncryptProgramReadsTheCiphertext : Prop :=
  ∀ (m kb : List Byte) (s : State), s.busy = false → s.program = encryptProgram m kb → s.trace = [] →
    ∃ n t, Sys2Proof.core.run n s = .next t ∧ t.program = [] ∧ wordBytes (doutReads t.trace) = encryptMessage m kb

/-- 43_host_message_codec.md R207: likewise for `host_decrypt` of a ciphertext of good length: what it read from DOUT is the
padded plaintext, block by block, and that un-padded is the result. -/
def Obligations.DecryptProgramReadsThePlaintext : Prop :=
  ∀ (C kb : List Byte) (s : State), lengthOk C = true → s.busy = false → s.program = decryptProgram C kb → s.trace = [] →
    ∃ n t, Sys2Proof.core.run n s = .next t ∧ t.program = [] ∧
      wordBytes (doutReads t.trace) = ((blocksOf C).flatMap fun b => (decryptBlock b (keySchedule kb)).bytes) ∧
      unpad (wordBytes (doutReads t.trace)) = decryptBytes C kb

/-- 43_host_message_codec.md R212: decoding undoes encoding, as bytes for every message, and as text under every policy for
the UTF-8 encoding of a text (UTF-8 is log entry 11's). -/
def Obligations.MessageRoundTrip : Prop :=
  (∀ m kb : List Byte, decryptBytes (encryptMessage m kb) kb = .ok m) ∧
  ∀ (p : TextPolicy) (text : List Char) (kb : List Byte), decryptMessage p (encryptMessage (utf8 text) kb) kb = .ok text

/-- 43_host_message_codec.md R208, R209, R211: a length that is 0 or no multiple of 16 fails with MALFORMED_LENGTH and issues
no access; a last byte outside 1..16 fails with BAD_PADDING; there is no other failure. R210: text decoding keeps every
well-formed character, under `ignore` drops a byte at which none begins and no more, and under each policy puts its
substitute for an invalid sequence made of such bytes alone (its reach and UTF-8 itself are log entry 11's). -/
def Obligations.CodecFailuresAndLossyText : Prop :=
  (∀ (p : TextPolicy) (C kb : List Byte), (C.length = 0 ∨ C.length % 16 ≠ 0) →
    decryptMessage p C kb = .fail .malformedLength ∧ decryptProgram C kb = []) ∧
  (∀ P : List Byte, (unpad P = .fail .badPadding ↔ (P.getD (P.length - 1) 0x00).toNat = 0 ∨
      16 < (P.getD (P.length - 1) 0x00).toNat) ∧ unpad P ≠ .fail .malformedLength) ∧
  (∀ (p : TextPolicy) (C kb : List Byte), lengthOk C = true →
    (decryptMessage p C kb = .fail .badPadding ∨ ∃ text, decryptMessage p C kb = .ok text)) ∧
  (∀ (p : TextPolicy) (bs rest : List Byte) (c : Char), utf8Head bs = some (c, rest) →
    textDecode p bs = c :: textDecode p rest) ∧
  (∀ (b : Byte) (bs : List Byte), utf8Head (b :: bs) = none → textDecode .ignore (b :: bs) = textDecode .ignore bs) ∧
  (∀ (p : TextPolicy) (b : Byte) (bs : List Byte), utf8Head (b :: bs) = none →
    ∃ k, 1 ≤ k ∧ k ≤ (b :: bs).length ∧ (∀ j, j < k → utf8Head ((b :: bs).drop j) = none) ∧
      textDecode p (b :: bs) = invalidText p ++ textDecode p ((b :: bs).drop k))
end

