-- ==== Sys2Proof/Laws/Data.lean ====
section
/-! SUPPORT. Reading groups of four and blocks: an element of what was built, and rebuilding from the elements. -/

namespace Sys2Proof

namespace Four

variable {α β γ : Type}

@[simp] theorem get_ofFn (f : Fin 4 → α) (i : Fin 4) : (Four.ofFn f).get i = f i := by fin_cases i <;> rfl

@[simp] theorem ofFn_get (q : Four α) : Four.ofFn q.get = q := rfl

@[simp] theorem get_set (q : Four α) (i j : Fin 4) (a : α) : (q.set i a).get j = if j = i then a else q.get j := by
  simp [Four.set]

@[simp] theorem get_map (f : α → β) (q : Four α) (i : Fin 4) : (q.map f).get i = f (q.get i) := by fin_cases i <;> rfl

@[simp] theorem get_zipWith (f : α → β → γ) (p : Four α) (q : Four β) (i : Fin 4) :
    (Four.zipWith f p q).get i = f (p.get i) (q.get i) := by fin_cases i <;> rfl

@[simp] theorem get_fill (a : α) (i : Fin 4) : (Four.fill a).get i = a := by fin_cases i <;> rfl

/-- Two groups with the same elements are equal. -/
theorem ext_get {p q : Four α} (h : ∀ i, p.get i = q.get i) : p = q := by
  rw [← ofFn_get p, ← ofFn_get q, funext h]

/-- All four elements replaced, one after the other. -/
theorem set_all (q : Four α) (a b c d : α) : (((q.set 0 a).set 1 b).set 2 c).set 3 d = ⟨a, b, c, d⟩ := rfl

end Four

namespace Block

@[simp] theorem at_ofRC (f : Fin 4 → Fin 4 → Byte) (r c : Fin 4) : (Block.ofRC f).at' r c = f r c := by
  simp [Block.ofRC, Block.at']

/-- Two blocks with the same bytes are equal. -/
theorem ext_at {s t : Block} (h : ∀ r c, s.at' r c = t.at' r c) : s = t :=
  Four.ext_get fun c => Four.ext_get fun r => h r c

@[simp] theorem at_mapBytes (f : Byte → Byte) (s : Block) (r c : Fin 4) : (s.mapBytes f).at' r c = f (s.at' r c) := by
  simp [Block.mapBytes, Block.at']

@[simp] theorem at_xor (s k : Block) (r c : Fin 4) : (s.xor k).at' r c = s.at' r c ^^^ k.at' r c := by
  simp [Block.xor, Block.at']

end Block

end Sys2Proof
end

