-- ==== Sys2Proof/Laws/State.lean ====
section
/-! SUPPORT. One lemma per field per update of State, so that no proof unfolds an update to read a field. -/

namespace Sys2Proof.Machine.State

variable (s : State)

/-! ### clearErr -/

@[simp] theorem clearErr_ctrlRb : (s.clearErr).ctrlRb = s.ctrlRb := rfl
@[simp] theorem clearErr_seq : (s.clearErr).seq = s.seq := rfl
@[simp] theorem clearErr_done : (s.clearErr).done = s.done := rfl
@[simp] theorem clearErr_keyValid : (s.clearErr).keyValid = s.keyValid := rfl
@[simp] theorem clearErr_err : (s.clearErr).err = false := rfl
@[simp] theorem clearErr_errCode : (s.clearErr).errCode = 0 := rfl
@[simp] theorem clearErr_lastOp : (s.clearErr).lastOp = s.lastOp := rfl
@[simp] theorem clearErr_len : (s.clearErr).len = s.len := rfl
@[simp] theorem clearErr_doneIe : (s.clearErr).doneIe = s.doneIe := rfl
@[simp] theorem clearErr_errIe : (s.clearErr).errIe = s.errIe := rfl
@[simp] theorem clearErr_key : (s.clearErr).key = s.key := rfl
@[simp] theorem clearErr_din : (s.clearErr).din = s.din := rfl
@[simp] theorem clearErr_dout : (s.clearErr).dout = s.dout := rfl
@[simp] theorem clearErr_idx : (s.clearErr).idx = s.idx := rfl
@[simp] theorem clearErr_work : (s.clearErr).work = s.work := rfl
@[simp] theorem clearErr_rk : (s.clearErr).rk = s.rk := rfl
@[simp] theorem clearErr_wait : (s.clearErr).wait = s.wait := rfl
@[simp] theorem clearErr_draw : (s.clearErr).draw = s.draw := rfl
@[simp] theorem clearErr_program : (s.clearErr).program = s.program := rfl
@[simp] theorem clearErr_trace : (s.clearErr).trace = s.trace := rfl

/-! ### clearDone -/

@[simp] theorem clearDone_ctrlRb : (s.clearDone).ctrlRb = s.ctrlRb := rfl
@[simp] theorem clearDone_seq : (s.clearDone).seq = s.seq := rfl
@[simp] theorem clearDone_done : (s.clearDone).done = false := rfl
@[simp] theorem clearDone_keyValid : (s.clearDone).keyValid = s.keyValid := rfl
@[simp] theorem clearDone_err : (s.clearDone).err = s.err := rfl
@[simp] theorem clearDone_errCode : (s.clearDone).errCode = s.errCode := rfl
@[simp] theorem clearDone_lastOp : (s.clearDone).lastOp = s.lastOp := rfl
@[simp] theorem clearDone_len : (s.clearDone).len = s.len := rfl
@[simp] theorem clearDone_doneIe : (s.clearDone).doneIe = s.doneIe := rfl
@[simp] theorem clearDone_errIe : (s.clearDone).errIe = s.errIe := rfl
@[simp] theorem clearDone_key : (s.clearDone).key = s.key := rfl
@[simp] theorem clearDone_din : (s.clearDone).din = s.din := rfl
@[simp] theorem clearDone_dout : (s.clearDone).dout = s.dout := rfl
@[simp] theorem clearDone_idx : (s.clearDone).idx = s.idx := rfl
@[simp] theorem clearDone_work : (s.clearDone).work = s.work := rfl
@[simp] theorem clearDone_rk : (s.clearDone).rk = s.rk := rfl
@[simp] theorem clearDone_wait : (s.clearDone).wait = s.wait := rfl
@[simp] theorem clearDone_draw : (s.clearDone).draw = s.draw := rfl
@[simp] theorem clearDone_program : (s.clearDone).program = s.program := rfl
@[simp] theorem clearDone_trace : (s.clearDone).trace = s.trace := rfl

/-! ### writeInten -/

@[simp] theorem writeInten_ctrlRb (v : Word) : (s.writeInten v).ctrlRb = s.ctrlRb := rfl
@[simp] theorem writeInten_seq (v : Word) : (s.writeInten v).seq = s.seq := rfl
@[simp] theorem writeInten_done (v : Word) : (s.writeInten v).done = s.done := rfl
@[simp] theorem writeInten_keyValid (v : Word) : (s.writeInten v).keyValid = s.keyValid := rfl
@[simp] theorem writeInten_err (v : Word) : (s.writeInten v).err = s.err := rfl
@[simp] theorem writeInten_errCode (v : Word) : (s.writeInten v).errCode = s.errCode := rfl
@[simp] theorem writeInten_lastOp (v : Word) : (s.writeInten v).lastOp = s.lastOp := rfl
@[simp] theorem writeInten_len (v : Word) : (s.writeInten v).len = s.len := rfl
@[simp] theorem writeInten_doneIe (v : Word) : (s.writeInten v).doneIe = v.getLsbD 0 := rfl
@[simp] theorem writeInten_errIe (v : Word) : (s.writeInten v).errIe = v.getLsbD 1 := rfl
@[simp] theorem writeInten_key (v : Word) : (s.writeInten v).key = s.key := rfl
@[simp] theorem writeInten_din (v : Word) : (s.writeInten v).din = s.din := rfl
@[simp] theorem writeInten_dout (v : Word) : (s.writeInten v).dout = s.dout := rfl
@[simp] theorem writeInten_idx (v : Word) : (s.writeInten v).idx = s.idx := rfl
@[simp] theorem writeInten_work (v : Word) : (s.writeInten v).work = s.work := rfl
@[simp] theorem writeInten_rk (v : Word) : (s.writeInten v).rk = s.rk := rfl
@[simp] theorem writeInten_wait (v : Word) : (s.writeInten v).wait = s.wait := rfl
@[simp] theorem writeInten_draw (v : Word) : (s.writeInten v).draw = s.draw := rfl
@[simp] theorem writeInten_program (v : Word) : (s.writeInten v).program = s.program := rfl
@[simp] theorem writeInten_trace (v : Word) : (s.writeInten v).trace = s.trace := rfl

/-! ### writeRkidx -/

@[simp] theorem writeRkidx_ctrlRb (v : Word) : (s.writeRkidx v).ctrlRb = s.ctrlRb := rfl
@[simp] theorem writeRkidx_seq (v : Word) : (s.writeRkidx v).seq = s.seq := rfl
@[simp] theorem writeRkidx_done (v : Word) : (s.writeRkidx v).done = s.done := rfl
@[simp] theorem writeRkidx_keyValid (v : Word) : (s.writeRkidx v).keyValid = s.keyValid := rfl
@[simp] theorem writeRkidx_err (v : Word) : (s.writeRkidx v).err = s.err := rfl
@[simp] theorem writeRkidx_errCode (v : Word) : (s.writeRkidx v).errCode = s.errCode := rfl
@[simp] theorem writeRkidx_lastOp (v : Word) : (s.writeRkidx v).lastOp = s.lastOp := rfl
@[simp] theorem writeRkidx_len (v : Word) : (s.writeRkidx v).len = s.len := rfl
@[simp] theorem writeRkidx_doneIe (v : Word) : (s.writeRkidx v).doneIe = s.doneIe := rfl
@[simp] theorem writeRkidx_errIe (v : Word) : (s.writeRkidx v).errIe = s.errIe := rfl
@[simp] theorem writeRkidx_key (v : Word) : (s.writeRkidx v).key = s.key := rfl
@[simp] theorem writeRkidx_din (v : Word) : (s.writeRkidx v).din = s.din := rfl
@[simp] theorem writeRkidx_dout (v : Word) : (s.writeRkidx v).dout = s.dout := rfl
@[simp] theorem writeRkidx_idx (v : Word) : (s.writeRkidx v).idx = v.extractLsb' 0 6 := rfl
@[simp] theorem writeRkidx_work (v : Word) : (s.writeRkidx v).work = s.work := rfl
@[simp] theorem writeRkidx_rk (v : Word) : (s.writeRkidx v).rk = s.rk := rfl
@[simp] theorem writeRkidx_wait (v : Word) : (s.writeRkidx v).wait = s.wait := rfl
@[simp] theorem writeRkidx_draw (v : Word) : (s.writeRkidx v).draw = s.draw := rfl
@[simp] theorem writeRkidx_program (v : Word) : (s.writeRkidx v).program = s.program := rfl
@[simp] theorem writeRkidx_trace (v : Word) : (s.writeRkidx v).trace = s.trace := rfl

/-! ### accept -/

@[simp] theorem accept_ctrlRb (op rnd : BitVec 4) : (s.accept op rnd).ctrlRb = rnd ++ op := rfl
@[simp] theorem accept_seq (op rnd : BitVec 4) : (s.accept op rnd).seq = .busy op rnd := rfl
@[simp] theorem accept_done (op rnd : BitVec 4) : (s.accept op rnd).done = false := rfl
@[simp] theorem accept_keyValid (op rnd : BitVec 4) : (s.accept op rnd).keyValid = s.keyValid := rfl
@[simp] theorem accept_err (op rnd : BitVec 4) : (s.accept op rnd).err = s.err := rfl
@[simp] theorem accept_errCode (op rnd : BitVec 4) : (s.accept op rnd).errCode = s.errCode := rfl
@[simp] theorem accept_lastOp (op rnd : BitVec 4) : (s.accept op rnd).lastOp = s.lastOp := rfl
@[simp] theorem accept_len (op rnd : BitVec 4) : (s.accept op rnd).len = s.len := rfl
@[simp] theorem accept_doneIe (op rnd : BitVec 4) : (s.accept op rnd).doneIe = s.doneIe := rfl
@[simp] theorem accept_errIe (op rnd : BitVec 4) : (s.accept op rnd).errIe = s.errIe := rfl
@[simp] theorem accept_key (op rnd : BitVec 4) : (s.accept op rnd).key = s.key := rfl
@[simp] theorem accept_din (op rnd : BitVec 4) : (s.accept op rnd).din = s.din := rfl
@[simp] theorem accept_dout (op rnd : BitVec 4) : (s.accept op rnd).dout = s.dout := rfl
@[simp] theorem accept_idx (op rnd : BitVec 4) : (s.accept op rnd).idx = s.idx := rfl
@[simp] theorem accept_work (op rnd : BitVec 4) : (s.accept op rnd).work = s.work := rfl
@[simp] theorem accept_rk (op rnd : BitVec 4) : (s.accept op rnd).rk = s.rk := rfl
@[simp] theorem accept_wait (op rnd : BitVec 4) : (s.accept op rnd).wait = Config.latency s.draw op := rfl
@[simp] theorem accept_draw (op rnd : BitVec 4) : (s.accept op rnd).draw = s.draw + 1 := rfl
@[simp] theorem accept_program (op rnd : BitVec 4) : (s.accept op rnd).program = s.program := rfl
@[simp] theorem accept_trace (op rnd : BitVec 4) : (s.accept op rnd).trace = s.trace := rfl

/-! ### acceptNop -/

@[simp] theorem acceptNop_ctrlRb (rnd : BitVec 4) : (s.acceptNop rnd).ctrlRb = rnd ++ (0x0 : BitVec 4) := rfl
@[simp] theorem acceptNop_seq (rnd : BitVec 4) : (s.acceptNop rnd).seq = s.seq := rfl
@[simp] theorem acceptNop_done (rnd : BitVec 4) : (s.acceptNop rnd).done = s.done := rfl
@[simp] theorem acceptNop_keyValid (rnd : BitVec 4) : (s.acceptNop rnd).keyValid = s.keyValid := rfl
@[simp] theorem acceptNop_err (rnd : BitVec 4) : (s.acceptNop rnd).err = s.err := rfl
@[simp] theorem acceptNop_errCode (rnd : BitVec 4) : (s.acceptNop rnd).errCode = s.errCode := rfl
@[simp] theorem acceptNop_lastOp (rnd : BitVec 4) : (s.acceptNop rnd).lastOp = s.lastOp := rfl
@[simp] theorem acceptNop_len (rnd : BitVec 4) : (s.acceptNop rnd).len = s.len := rfl
@[simp] theorem acceptNop_doneIe (rnd : BitVec 4) : (s.acceptNop rnd).doneIe = s.doneIe := rfl
@[simp] theorem acceptNop_errIe (rnd : BitVec 4) : (s.acceptNop rnd).errIe = s.errIe := rfl
@[simp] theorem acceptNop_key (rnd : BitVec 4) : (s.acceptNop rnd).key = s.key := rfl
@[simp] theorem acceptNop_din (rnd : BitVec 4) : (s.acceptNop rnd).din = s.din := rfl
@[simp] theorem acceptNop_dout (rnd : BitVec 4) : (s.acceptNop rnd).dout = s.dout := rfl
@[simp] theorem acceptNop_idx (rnd : BitVec 4) : (s.acceptNop rnd).idx = s.idx := rfl
@[simp] theorem acceptNop_work (rnd : BitVec 4) : (s.acceptNop rnd).work = s.work := rfl
@[simp] theorem acceptNop_rk (rnd : BitVec 4) : (s.acceptNop rnd).rk = s.rk := rfl
@[simp] theorem acceptNop_wait (rnd : BitVec 4) : (s.acceptNop rnd).wait = s.wait := rfl
@[simp] theorem acceptNop_draw (rnd : BitVec 4) : (s.acceptNop rnd).draw = s.draw := rfl
@[simp] theorem acceptNop_program (rnd : BitVec 4) : (s.acceptNop rnd).program = s.program := rfl
@[simp] theorem acceptNop_trace (rnd : BitVec 4) : (s.acceptNop rnd).trace = s.trace := rfl

/-! ### expandKey -/

@[simp] theorem expandKey_ctrlRb : (s.expandKey).ctrlRb = s.ctrlRb := rfl
@[simp] theorem expandKey_seq : (s.expandKey).seq = s.seq := rfl
@[simp] theorem expandKey_done : (s.expandKey).done = s.done := rfl
@[simp] theorem expandKey_keyValid : (s.expandKey).keyValid = true := rfl
@[simp] theorem expandKey_err : (s.expandKey).err = s.err := rfl
@[simp] theorem expandKey_errCode : (s.expandKey).errCode = s.errCode := rfl
@[simp] theorem expandKey_lastOp : (s.expandKey).lastOp = s.lastOp := rfl
@[simp] theorem expandKey_len : (s.expandKey).len = s.len := rfl
@[simp] theorem expandKey_doneIe : (s.expandKey).doneIe = s.doneIe := rfl
@[simp] theorem expandKey_errIe : (s.expandKey).errIe = s.errIe := rfl
@[simp] theorem expandKey_key : (s.expandKey).key = s.key := rfl
@[simp] theorem expandKey_din : (s.expandKey).din = s.din := rfl
@[simp] theorem expandKey_dout : (s.expandKey).dout = s.dout := rfl
@[simp] theorem expandKey_idx : (s.expandKey).idx = s.idx := rfl
@[simp] theorem expandKey_work : (s.expandKey).work = s.work := rfl
@[simp] theorem expandKey_rk : (s.expandKey).rk = scheduleOf s.key s.len := rfl
@[simp] theorem expandKey_wait : (s.expandKey).wait = s.wait := rfl
@[simp] theorem expandKey_draw : (s.expandKey).draw = s.draw := rfl
@[simp] theorem expandKey_program : (s.expandKey).program = s.program := rfl
@[simp] theorem expandKey_trace : (s.expandKey).trace = s.trace := rfl

/-! ### storeWork -/

@[simp] theorem storeWork_ctrlRb (b : Block) : (s.storeWork b).ctrlRb = s.ctrlRb := rfl
@[simp] theorem storeWork_seq (b : Block) : (s.storeWork b).seq = s.seq := rfl
@[simp] theorem storeWork_done (b : Block) : (s.storeWork b).done = s.done := rfl
@[simp] theorem storeWork_keyValid (b : Block) : (s.storeWork b).keyValid = s.keyValid := rfl
@[simp] theorem storeWork_err (b : Block) : (s.storeWork b).err = s.err := rfl
@[simp] theorem storeWork_errCode (b : Block) : (s.storeWork b).errCode = s.errCode := rfl
@[simp] theorem storeWork_lastOp (b : Block) : (s.storeWork b).lastOp = s.lastOp := rfl
@[simp] theorem storeWork_len (b : Block) : (s.storeWork b).len = s.len := rfl
@[simp] theorem storeWork_doneIe (b : Block) : (s.storeWork b).doneIe = s.doneIe := rfl
@[simp] theorem storeWork_errIe (b : Block) : (s.storeWork b).errIe = s.errIe := rfl
@[simp] theorem storeWork_key (b : Block) : (s.storeWork b).key = s.key := rfl
@[simp] theorem storeWork_din (b : Block) : (s.storeWork b).din = s.din := rfl
@[simp] theorem storeWork_dout (b : Block) : (s.storeWork b).dout = b2w b := rfl
@[simp] theorem storeWork_idx (b : Block) : (s.storeWork b).idx = s.idx := rfl
@[simp] theorem storeWork_work (b : Block) : (s.storeWork b).work = b := rfl
@[simp] theorem storeWork_rk (b : Block) : (s.storeWork b).rk = s.rk := rfl
@[simp] theorem storeWork_wait (b : Block) : (s.storeWork b).wait = s.wait := rfl
@[simp] theorem storeWork_draw (b : Block) : (s.storeWork b).draw = s.draw := rfl
@[simp] theorem storeWork_program (b : Block) : (s.storeWork b).program = s.program := rfl
@[simp] theorem storeWork_trace (b : Block) : (s.storeWork b).trace = s.trace := rfl

/-! ### transformWork -/

@[simp] theorem transformWork_ctrlRb (f : Block → Block) : (s.transformWork f).ctrlRb = s.ctrlRb := rfl
@[simp] theorem transformWork_seq (f : Block → Block) : (s.transformWork f).seq = s.seq := rfl
@[simp] theorem transformWork_done (f : Block → Block) : (s.transformWork f).done = s.done := rfl
@[simp] theorem transformWork_keyValid (f : Block → Block) : (s.transformWork f).keyValid = s.keyValid := rfl
@[simp] theorem transformWork_err (f : Block → Block) : (s.transformWork f).err = s.err := rfl
@[simp] theorem transformWork_errCode (f : Block → Block) : (s.transformWork f).errCode = s.errCode := rfl
@[simp] theorem transformWork_lastOp (f : Block → Block) : (s.transformWork f).lastOp = s.lastOp := rfl
@[simp] theorem transformWork_len (f : Block → Block) : (s.transformWork f).len = s.len := rfl
@[simp] theorem transformWork_doneIe (f : Block → Block) : (s.transformWork f).doneIe = s.doneIe := rfl
@[simp] theorem transformWork_errIe (f : Block → Block) : (s.transformWork f).errIe = s.errIe := rfl
@[simp] theorem transformWork_key (f : Block → Block) : (s.transformWork f).key = s.key := rfl
@[simp] theorem transformWork_din (f : Block → Block) : (s.transformWork f).din = s.din := rfl
@[simp] theorem transformWork_dout (f : Block → Block) : (s.transformWork f).dout = b2w (f s.work) := rfl
@[simp] theorem transformWork_idx (f : Block → Block) : (s.transformWork f).idx = s.idx := rfl
@[simp] theorem transformWork_work (f : Block → Block) : (s.transformWork f).work = f s.work := rfl
@[simp] theorem transformWork_rk (f : Block → Block) : (s.transformWork f).rk = s.rk := rfl
@[simp] theorem transformWork_wait (f : Block → Block) : (s.transformWork f).wait = s.wait := rfl
@[simp] theorem transformWork_draw (f : Block → Block) : (s.transformWork f).draw = s.draw := rfl
@[simp] theorem transformWork_program (f : Block → Block) : (s.transformWork f).program = s.program := rfl
@[simp] theorem transformWork_trace (f : Block → Block) : (s.transformWork f).trace = s.trace := rfl

/-! ### finish -/

@[simp] theorem finish_ctrlRb (op : BitVec 4) : (s.finish op).ctrlRb = s.ctrlRb := rfl
@[simp] theorem finish_seq (op : BitVec 4) : (s.finish op).seq = .idle := rfl
@[simp] theorem finish_done (op : BitVec 4) : (s.finish op).done = true := rfl
@[simp] theorem finish_keyValid (op : BitVec 4) : (s.finish op).keyValid = s.keyValid := rfl
@[simp] theorem finish_err (op : BitVec 4) : (s.finish op).err = s.err := rfl
@[simp] theorem finish_errCode (op : BitVec 4) : (s.finish op).errCode = s.errCode := rfl
@[simp] theorem finish_lastOp (op : BitVec 4) : (s.finish op).lastOp = op := rfl
@[simp] theorem finish_len (op : BitVec 4) : (s.finish op).len = s.len := rfl
@[simp] theorem finish_doneIe (op : BitVec 4) : (s.finish op).doneIe = s.doneIe := rfl
@[simp] theorem finish_errIe (op : BitVec 4) : (s.finish op).errIe = s.errIe := rfl
@[simp] theorem finish_key (op : BitVec 4) : (s.finish op).key = s.key := rfl
@[simp] theorem finish_din (op : BitVec 4) : (s.finish op).din = s.din := rfl
@[simp] theorem finish_dout (op : BitVec 4) : (s.finish op).dout = s.dout := rfl
@[simp] theorem finish_idx (op : BitVec 4) : (s.finish op).idx = s.idx := rfl
@[simp] theorem finish_work (op : BitVec 4) : (s.finish op).work = s.work := rfl
@[simp] theorem finish_rk (op : BitVec 4) : (s.finish op).rk = s.rk := rfl
@[simp] theorem finish_wait (op : BitVec 4) : (s.finish op).wait = s.wait := rfl
@[simp] theorem finish_draw (op : BitVec 4) : (s.finish op).draw = s.draw := rfl
@[simp] theorem finish_program (op : BitVec 4) : (s.finish op).program = s.program := rfl
@[simp] theorem finish_trace (op : BitVec 4) : (s.finish op).trace = s.trace := rfl

/-! ### withProgram -/

@[simp] theorem withProgram_ctrlRb (p : List HostOp) : (s.withProgram p).ctrlRb = s.ctrlRb := rfl
@[simp] theorem withProgram_seq (p : List HostOp) : (s.withProgram p).seq = s.seq := rfl
@[simp] theorem withProgram_done (p : List HostOp) : (s.withProgram p).done = s.done := rfl
@[simp] theorem withProgram_keyValid (p : List HostOp) : (s.withProgram p).keyValid = s.keyValid := rfl
@[simp] theorem withProgram_err (p : List HostOp) : (s.withProgram p).err = s.err := rfl
@[simp] theorem withProgram_errCode (p : List HostOp) : (s.withProgram p).errCode = s.errCode := rfl
@[simp] theorem withProgram_lastOp (p : List HostOp) : (s.withProgram p).lastOp = s.lastOp := rfl
@[simp] theorem withProgram_len (p : List HostOp) : (s.withProgram p).len = s.len := rfl
@[simp] theorem withProgram_doneIe (p : List HostOp) : (s.withProgram p).doneIe = s.doneIe := rfl
@[simp] theorem withProgram_errIe (p : List HostOp) : (s.withProgram p).errIe = s.errIe := rfl
@[simp] theorem withProgram_key (p : List HostOp) : (s.withProgram p).key = s.key := rfl
@[simp] theorem withProgram_din (p : List HostOp) : (s.withProgram p).din = s.din := rfl
@[simp] theorem withProgram_dout (p : List HostOp) : (s.withProgram p).dout = s.dout := rfl
@[simp] theorem withProgram_idx (p : List HostOp) : (s.withProgram p).idx = s.idx := rfl
@[simp] theorem withProgram_work (p : List HostOp) : (s.withProgram p).work = s.work := rfl
@[simp] theorem withProgram_rk (p : List HostOp) : (s.withProgram p).rk = s.rk := rfl
@[simp] theorem withProgram_wait (p : List HostOp) : (s.withProgram p).wait = s.wait := rfl
@[simp] theorem withProgram_draw (p : List HostOp) : (s.withProgram p).draw = s.draw := rfl
@[simp] theorem withProgram_program (p : List HostOp) : (s.withProgram p).program = p := rfl
@[simp] theorem withProgram_trace (p : List HostOp) : (s.withProgram p).trace = s.trace := rfl

/-! ### observe -/

@[simp] theorem observe_ctrlRb (o : Obs) : (s.observe o).ctrlRb = s.ctrlRb := rfl
@[simp] theorem observe_seq (o : Obs) : (s.observe o).seq = s.seq := rfl
@[simp] theorem observe_done (o : Obs) : (s.observe o).done = s.done := rfl
@[simp] theorem observe_keyValid (o : Obs) : (s.observe o).keyValid = s.keyValid := rfl
@[simp] theorem observe_err (o : Obs) : (s.observe o).err = s.err := rfl
@[simp] theorem observe_errCode (o : Obs) : (s.observe o).errCode = s.errCode := rfl
@[simp] theorem observe_lastOp (o : Obs) : (s.observe o).lastOp = s.lastOp := rfl
@[simp] theorem observe_len (o : Obs) : (s.observe o).len = s.len := rfl
@[simp] theorem observe_doneIe (o : Obs) : (s.observe o).doneIe = s.doneIe := rfl
@[simp] theorem observe_errIe (o : Obs) : (s.observe o).errIe = s.errIe := rfl
@[simp] theorem observe_key (o : Obs) : (s.observe o).key = s.key := rfl
@[simp] theorem observe_din (o : Obs) : (s.observe o).din = s.din := rfl
@[simp] theorem observe_dout (o : Obs) : (s.observe o).dout = s.dout := rfl
@[simp] theorem observe_idx (o : Obs) : (s.observe o).idx = s.idx := rfl
@[simp] theorem observe_work (o : Obs) : (s.observe o).work = s.work := rfl
@[simp] theorem observe_rk (o : Obs) : (s.observe o).rk = s.rk := rfl
@[simp] theorem observe_wait (o : Obs) : (s.observe o).wait = s.wait := rfl
@[simp] theorem observe_draw (o : Obs) : (s.observe o).draw = s.draw := rfl
@[simp] theorem observe_program (o : Obs) : (s.observe o).program = s.program := rfl
@[simp] theorem observe_trace (o : Obs) : (s.observe o).trace = o :: s.trace := rfl

/-! ### raise -/

@[simp] theorem raise_ctrlRb (e : ErrCode) : (s.raise e).ctrlRb = s.ctrlRb := by
  unfold raise; split <;> rfl
@[simp] theorem raise_seq (e : ErrCode) : (s.raise e).seq = s.seq := by
  unfold raise; split <;> rfl
@[simp] theorem raise_done (e : ErrCode) : (s.raise e).done = s.done := by
  unfold raise; split <;> rfl
@[simp] theorem raise_keyValid (e : ErrCode) : (s.raise e).keyValid = s.keyValid := by
  unfold raise; split <;> rfl
@[simp] theorem raise_err (e : ErrCode) : (s.raise e).err = true := by
  unfold raise; split <;> simp_all
@[simp] theorem raise_errCode (e : ErrCode) : (s.raise e).errCode = if s.err then s.errCode else e.code := by
  unfold raise; split <;> simp_all
@[simp] theorem raise_lastOp (e : ErrCode) : (s.raise e).lastOp = s.lastOp := by
  unfold raise; split <;> rfl
@[simp] theorem raise_len (e : ErrCode) : (s.raise e).len = s.len := by
  unfold raise; split <;> rfl
@[simp] theorem raise_doneIe (e : ErrCode) : (s.raise e).doneIe = s.doneIe := by
  unfold raise; split <;> rfl
@[simp] theorem raise_errIe (e : ErrCode) : (s.raise e).errIe = s.errIe := by
  unfold raise; split <;> rfl
@[simp] theorem raise_key (e : ErrCode) : (s.raise e).key = s.key := by
  unfold raise; split <;> rfl
@[simp] theorem raise_din (e : ErrCode) : (s.raise e).din = s.din := by
  unfold raise; split <;> rfl
@[simp] theorem raise_dout (e : ErrCode) : (s.raise e).dout = s.dout := by
  unfold raise; split <;> rfl
@[simp] theorem raise_idx (e : ErrCode) : (s.raise e).idx = s.idx := by
  unfold raise; split <;> rfl
@[simp] theorem raise_work (e : ErrCode) : (s.raise e).work = s.work := by
  unfold raise; split <;> rfl
@[simp] theorem raise_rk (e : ErrCode) : (s.raise e).rk = s.rk := by
  unfold raise; split <;> rfl
@[simp] theorem raise_wait (e : ErrCode) : (s.raise e).wait = s.wait := by
  unfold raise; split <;> rfl
@[simp] theorem raise_draw (e : ErrCode) : (s.raise e).draw = s.draw := by
  unfold raise; split <;> rfl
@[simp] theorem raise_program (e : ErrCode) : (s.raise e).program = s.program := by
  unfold raise; split <;> rfl
@[simp] theorem raise_trace (e : ErrCode) : (s.raise e).trace = s.trace := by
  unfold raise; split <;> rfl

/-! ### ensureKey -/

@[simp] theorem ensureKey_ctrlRb : (s.ensureKey).ctrlRb = s.ctrlRb := by
  unfold ensureKey; split <;> rfl
@[simp] theorem ensureKey_seq : (s.ensureKey).seq = s.seq := by
  unfold ensureKey; split <;> rfl
@[simp] theorem ensureKey_done : (s.ensureKey).done = s.done := by
  unfold ensureKey; split <;> rfl
@[simp] theorem ensureKey_keyValid : (s.ensureKey).keyValid = true := by
  unfold ensureKey; split <;> simp_all
@[simp] theorem ensureKey_err : (s.ensureKey).err = s.err := by
  unfold ensureKey; split <;> rfl
@[simp] theorem ensureKey_errCode : (s.ensureKey).errCode = s.errCode := by
  unfold ensureKey; split <;> rfl
@[simp] theorem ensureKey_lastOp : (s.ensureKey).lastOp = s.lastOp := by
  unfold ensureKey; split <;> rfl
@[simp] theorem ensureKey_len : (s.ensureKey).len = s.len := by
  unfold ensureKey; split <;> rfl
@[simp] theorem ensureKey_doneIe : (s.ensureKey).doneIe = s.doneIe := by
  unfold ensureKey; split <;> rfl
@[simp] theorem ensureKey_errIe : (s.ensureKey).errIe = s.errIe := by
  unfold ensureKey; split <;> rfl
@[simp] theorem ensureKey_key : (s.ensureKey).key = s.key := by
  unfold ensureKey; split <;> rfl
@[simp] theorem ensureKey_din : (s.ensureKey).din = s.din := by
  unfold ensureKey; split <;> rfl
@[simp] theorem ensureKey_dout : (s.ensureKey).dout = s.dout := by
  unfold ensureKey; split <;> rfl
@[simp] theorem ensureKey_idx : (s.ensureKey).idx = s.idx := by
  unfold ensureKey; split <;> rfl
@[simp] theorem ensureKey_work : (s.ensureKey).work = s.work := by
  unfold ensureKey; split <;> rfl
@[simp] theorem ensureKey_rk : (s.ensureKey).rk = if s.keyValid then s.rk else scheduleOf s.key s.len := by
  unfold ensureKey; split <;> simp_all
@[simp] theorem ensureKey_wait : (s.ensureKey).wait = s.wait := by
  unfold ensureKey; split <;> rfl
@[simp] theorem ensureKey_draw : (s.ensureKey).draw = s.draw := by
  unfold ensureKey; split <;> rfl
@[simp] theorem ensureKey_program : (s.ensureKey).program = s.program := by
  unfold ensureKey; split <;> rfl
@[simp] theorem ensureKey_trace : (s.ensureKey).trace = s.trace := by
  unfold ensureKey; split <;> rfl

/-! ### tick -/

@[simp] theorem tick_ctrlRb : (s.tick).ctrlRb = s.ctrlRb := by
  unfold tick; split <;> rfl
@[simp] theorem tick_seq : (s.tick).seq = s.seq := by
  unfold tick; split <;> rfl
@[simp] theorem tick_done : (s.tick).done = s.done := by
  unfold tick; split <;> rfl
@[simp] theorem tick_keyValid : (s.tick).keyValid = s.keyValid := by
  unfold tick; split <;> rfl
@[simp] theorem tick_err : (s.tick).err = s.err := by
  unfold tick; split <;> rfl
@[simp] theorem tick_errCode : (s.tick).errCode = s.errCode := by
  unfold tick; split <;> rfl
@[simp] theorem tick_lastOp : (s.tick).lastOp = s.lastOp := by
  unfold tick; split <;> rfl
@[simp] theorem tick_len : (s.tick).len = s.len := by
  unfold tick; split <;> rfl
@[simp] theorem tick_doneIe : (s.tick).doneIe = s.doneIe := by
  unfold tick; split <;> rfl
@[simp] theorem tick_errIe : (s.tick).errIe = s.errIe := by
  unfold tick; split <;> rfl
@[simp] theorem tick_key : (s.tick).key = s.key := by
  unfold tick; split <;> rfl
@[simp] theorem tick_din : (s.tick).din = s.din := by
  unfold tick; split <;> rfl
@[simp] theorem tick_dout : (s.tick).dout = s.dout := by
  unfold tick; split <;> rfl
@[simp] theorem tick_idx : (s.tick).idx = s.idx := by
  unfold tick; split <;> rfl
@[simp] theorem tick_work : (s.tick).work = s.work := by
  unfold tick; split <;> rfl
@[simp] theorem tick_rk : (s.tick).rk = s.rk := by
  unfold tick; split <;> rfl
@[simp] theorem tick_wait : (s.tick).wait = if s.busy then s.wait - 1 else s.wait := by
  unfold tick; split <;> simp_all [State.busy]
@[simp] theorem tick_draw : (s.tick).draw = s.draw := by
  unfold tick; split <;> rfl
@[simp] theorem tick_program : (s.tick).program = s.program := by
  unfold tick; split <;> rfl
@[simp] theorem tick_trace : (s.tick).trace = s.trace := by
  unfold tick; split <;> rfl

/-! ### writeStatus -/

@[simp] theorem writeStatus_ctrlRb (v : Word) : (s.writeStatus v).ctrlRb = s.ctrlRb := by
  unfold writeStatus; split <;> split <;> simp_all
@[simp] theorem writeStatus_seq (v : Word) : (s.writeStatus v).seq = s.seq := by
  unfold writeStatus; split <;> split <;> simp_all
@[simp] theorem writeStatus_done (v : Word) : (s.writeStatus v).done = (s.done && !v.getLsbD 1) := by
  unfold writeStatus; split <;> split <;> simp_all
@[simp] theorem writeStatus_keyValid (v : Word) : (s.writeStatus v).keyValid = s.keyValid := by
  unfold writeStatus; split <;> split <;> simp_all
@[simp] theorem writeStatus_err (v : Word) : (s.writeStatus v).err = (s.err && !v.getLsbD 3) := by
  unfold writeStatus; split <;> split <;> simp_all
@[simp] theorem writeStatus_errCode (v : Word) : (s.writeStatus v).errCode = if v.getLsbD 3 then 0 else s.errCode := by
  unfold writeStatus; split <;> split <;> simp_all
@[simp] theorem writeStatus_lastOp (v : Word) : (s.writeStatus v).lastOp = s.lastOp := by
  unfold writeStatus; split <;> split <;> simp_all
@[simp] theorem writeStatus_len (v : Word) : (s.writeStatus v).len = s.len := by
  unfold writeStatus; split <;> split <;> simp_all
@[simp] theorem writeStatus_doneIe (v : Word) : (s.writeStatus v).doneIe = s.doneIe := by
  unfold writeStatus; split <;> split <;> simp_all
@[simp] theorem writeStatus_errIe (v : Word) : (s.writeStatus v).errIe = s.errIe := by
  unfold writeStatus; split <;> split <;> simp_all
@[simp] theorem writeStatus_key (v : Word) : (s.writeStatus v).key = s.key := by
  unfold writeStatus; split <;> split <;> simp_all
@[simp] theorem writeStatus_din (v : Word) : (s.writeStatus v).din = s.din := by
  unfold writeStatus; split <;> split <;> simp_all
@[simp] theorem writeStatus_dout (v : Word) : (s.writeStatus v).dout = s.dout := by
  unfold writeStatus; split <;> split <;> simp_all
@[simp] theorem writeStatus_idx (v : Word) : (s.writeStatus v).idx = s.idx := by
  unfold writeStatus; split <;> split <;> simp_all
@[simp] theorem writeStatus_work (v : Word) : (s.writeStatus v).work = s.work := by
  unfold writeStatus; split <;> split <;> simp_all
@[simp] theorem writeStatus_rk (v : Word) : (s.writeStatus v).rk = s.rk := by
  unfold writeStatus; split <;> split <;> simp_all
@[simp] theorem writeStatus_wait (v : Word) : (s.writeStatus v).wait = s.wait := by
  unfold writeStatus; split <;> split <;> simp_all
@[simp] theorem writeStatus_draw (v : Word) : (s.writeStatus v).draw = s.draw := by
  unfold writeStatus; split <;> split <;> simp_all
@[simp] theorem writeStatus_program (v : Word) : (s.writeStatus v).program = s.program := by
  unfold writeStatus; split <;> split <;> simp_all
@[simp] theorem writeStatus_trace (v : Word) : (s.writeStatus v).trace = s.trace := by
  unfold writeStatus; split <;> split <;> simp_all
/-! ### resetEvent -/

@[simp] theorem resetEvent_ctrlRb : (s.resetEvent).ctrlRb = 0x00 := rfl
@[simp] theorem resetEvent_seq : (s.resetEvent).seq = .idle := rfl
@[simp] theorem resetEvent_done : (s.resetEvent).done = false := rfl
@[simp] theorem resetEvent_keyValid : (s.resetEvent).keyValid = false := rfl
@[simp] theorem resetEvent_err : (s.resetEvent).err = false := rfl
@[simp] theorem resetEvent_errCode : (s.resetEvent).errCode = 0 := rfl
@[simp] theorem resetEvent_lastOp : (s.resetEvent).lastOp = 0 := rfl
@[simp] theorem resetEvent_len : (s.resetEvent).len = 16 := rfl
@[simp] theorem resetEvent_doneIe : (s.resetEvent).doneIe = false := rfl
@[simp] theorem resetEvent_errIe : (s.resetEvent).errIe = false := rfl
@[simp] theorem resetEvent_key : (s.resetEvent).key = Four.fill 0 := rfl
@[simp] theorem resetEvent_din : (s.resetEvent).din = Four.fill 0 := rfl
@[simp] theorem resetEvent_dout : (s.resetEvent).dout = Four.fill 0 := rfl
@[simp] theorem resetEvent_idx : (s.resetEvent).idx = 0 := rfl
@[simp] theorem resetEvent_work : (s.resetEvent).work = Block.zero := rfl
@[simp] theorem resetEvent_rk : (s.resetEvent).rk = Config.rkAfterReset s.draw := rfl
@[simp] theorem resetEvent_wait : (s.resetEvent).wait = 0 := rfl
@[simp] theorem resetEvent_draw : (s.resetEvent).draw = s.draw + 1 := rfl
@[simp] theorem resetEvent_program : (s.resetEvent).program = s.program := rfl
@[simp] theorem resetEvent_trace : (s.resetEvent).trace = s.trace := rfl

/-- A host turn passing changes `wait` alone, and only while BUSY. -/
theorem tick_eq : s.tick = { s with wait := if s.busy then s.wait - 1 else s.wait } := by
  rcases s with ⟨_, seq⟩
  cases seq <;> rfl

end Sys2Proof.Machine.State
end

