-- ==== Sys2Proof/Laws/Exec.lean ====
section
/-! SUPPORT. What exec does, once for all instructions: at the host's turn while BUSY, at the host's turn while idle, and at
the core's turn. Later proofs cite these and unfold no meaning. -/

namespace Sys2Proof.Machine

/-! ### Whose turn it is -/

@[simp] theorem turn_idle {s : State} (h : s.seq = .idle) : s.turn = .host := by simp [State.turn, h]

theorem turn_host_of_not_busy {s : State} (h : s.busy = false) : s.turn = .host := by
  unfold State.busy at h
  unfold State.turn
  split <;> simp_all

theorem turn_core_iff {s : State} : s.turn = .core ↔ s.wait = 0 ∧ ∃ op rnd, s.seq = .busy op rnd := by
  unfold State.turn
  split <;> rename_i h <;> simp [h]

theorem turn_host_or_core (s : State) : s.turn = .host ∨ s.turn = .core := by cases s.turn <;> simp

@[simp] theorem not_turn_core {s : State} : ¬s.turn = .core ↔ s.turn = .host := by cases s.turn <;> simp

theorem busy_eq_false_iff {s : State} : s.busy = false ↔ s.seq = .idle := by
  unfold State.busy
  split <;> rename_i h <;> simp [h]

theorem busy_eq_true_iff {s : State} : s.busy = true ↔ ∃ op rnd, s.seq = .busy op rnd := by
  unfold State.busy
  split <;> rename_i h <;> simp [h]

theorem busy_of_turn_core {s : State} (h : s.turn = .core) : s.busy = true :=
  busy_eq_true_iff.2 (turn_core_iff.1 h).2

theorem turn_congr {s t : State} (h1 : t.seq = s.seq) (h2 : t.wait = s.wait) : t.turn = s.turn := by
  simp [State.turn, h1, h2]

theorem busy_congr {s t : State} (h : t.seq = s.seq) : t.busy = s.busy := by simp [State.busy, h]

@[simp] theorem turn_withProgram (s : State) (p : List HostOp) : (s.withProgram p).turn = s.turn := rfl

@[simp] theorem busy_withProgram (s : State) (p : List HostOp) : (s.withProgram p).busy = s.busy := rfl

/-! ### exec in its three situations -/

/-- What a CTRL write of `i` does while idle (42_block_cipher.md R180). -/
def writeEffect (i : Instr) (s : State) : State :=
  match i with
  | .nop rnd => s.acceptNop rnd
  | .ark rnd => if rnd.toNat ≤ 10 then s.accept 0xB rnd else s.raise .badRound
  | .arkBadRound11 => s.raise .badRound
  | .arkBadRound12 => s.raise .badRound
  | .arkBadRound13 => s.raise .badRound
  | .arkBadRound14 => s.raise .badRound
  | .arkBadRound15 => s.raise .badRound
  | .illegal _ _ => s.raise .illegalOp
  | .keyexp rnd => s.accept 0x1 rnd
  | .enc rnd => s.accept 0x2 rnd
  | .dec rnd => s.accept 0x3 rnd
  | .load rnd => s.accept 0x4 rnd
  | .sub rnd => s.accept 0x5 rnd
  | .isub rnd => s.accept 0x6 rnd
  | .shr rnd => s.accept 0x7 rnd
  | .ishr rnd => s.accept 0x8 rnd
  | .mix rnd => s.accept 0x9 rnd
  | .imix rnd => s.accept 0xA rnd

/-- What the completion of `i` does before it ends the command (42_block_cipher.md R181). -/
def effect (i : Instr) (s : State) : State :=
  match i with
  | .keyexp _ => s.expandKey
  | .enc _ => encEffect s
  | .dec _ => decEffect s
  | .load _ => s.storeWork (w2b s.din)
  | .sub _ => s.transformWork subBytes
  | .isub _ => s.transformWork invSubBytes
  | .shr _ => s.transformWork shiftRows
  | .ishr _ => s.transformWork invShiftRows
  | .mix _ => s.transformWork mixColumns
  | .imix _ => s.transformWork invMixColumns
  | .ark rnd => if h : rnd.toNat ≤ 10 then arkEffect ⟨rnd.toNat, by omega⟩ s else s
  | .nop _ => s
  | .arkBadRound11 => s
  | .arkBadRound12 => s
  | .arkBadRound13 => s
  | .arkBadRound14 => s
  | .arkBadRound15 => s
  | .illegal _ _ => s

/-- The instructions that complete. -/
def completes (i : Instr) : Bool :=
  match i with
  | .nop _ => false
  | .arkBadRound11 => false
  | .arkBadRound12 => false
  | .arkBadRound13 => false
  | .arkBadRound14 => false
  | .arkBadRound15 => false
  | .illegal _ _ => false
  | .ark rnd => decide (rnd.toNat ≤ 10)
  | _ => true

theorem exec_busy (i : Instr) {s : State} (h : s.turn = .host) (hb : s.busy = true) :
    exec i s = .next (s.raise .busyWrite) := by
  cases i <;> simp [exec, execNop, execKeyexp, execEnc, execDec, execLoad, execSub, execIsub, execShr, execIshr, execMix,
    execImix, execArk, execArkBadRound11, execArkBadRound12, execArkBadRound13, execArkBadRound14, execArkBadRound15,
    execIllegal, reject, lifeCycle, h, hb]

theorem exec_idle (i : Instr) {s : State} (hb : s.busy = false) : exec i s = .next (writeEffect i s) := by
  have h := turn_host_of_not_busy hb
  cases i <;> simp [exec, execNop, execKeyexp, execEnc, execDec, execLoad, execSub, execIsub, execShr, execIshr, execMix,
    execImix, execArk, execArkBadRound11, execArkBadRound12, execArkBadRound13, execArkBadRound14, execArkBadRound15,
    execIllegal, reject, lifeCycle, writeEffect, h, hb]

theorem exec_core {i : Instr} {s : State} (h : s.turn = .core) (hc : completes i = true) :
    exec i s = .next ((effect i s).finish i.op) := by
  cases i <;> simp_all [exec, execKeyexp, execEnc, execDec, execLoad, execSub, execIsub, execShr, execIshr, execMix,
    execImix, execArk, arkComplete, lifeCycle, completeWith, effect, completes, Instr.op]

theorem exec_core_fault {i : Instr} {s : State} (h : s.turn = .core) (hc : completes i = false) :
    exec i s = .fault .noSuchPendingCommand := by
  cases i <;> simp_all [exec, execNop, execArk, arkComplete, execArkBadRound11, execArkBadRound12, execArkBadRound13,
    execArkBadRound14, execArkBadRound15, execIllegal, reject, lifeCycle, noCompletion, completes]

/-- exec never refuses. -/
theorem exec_not_refused (i : Instr) (s : State) (r : Refusal) : exec i s ≠ .refused r := by
  rcases turn_host_or_core s with h | h
  · cases hb : s.busy
    · simp [exec_idle i hb]
    · simp [exec_busy i h hb]
  · cases hc : completes i
    · simp [exec_core_fault h hc]
    · simp [exec_core h hc]

/-! ### The pending pair and its instruction -/

theorem completes_instrOfFields (op rnd : BitVec 4) : completes (instrOfFields op rnd) = commandPair op rnd := by
  revert op rnd
  decide +kernel

theorem op_instrOfFields (op rnd : BitVec 4) : (instrOfFields op rnd).op = op := by
  revert op rnd
  decide +kernel

theorem round_instrOfFields (op rnd : BitVec 4) : (instrOfFields op rnd).round = rnd := by
  revert op rnd
  decide +kernel

theorem completes_iff_pair {i : Instr} (h : i.wf = true) : completes i = commandPair i.op i.round := by
  cases i <;> simp_all [completes, commandPair, Instr.op, Instr.round, Instr.wf]
  exact decide_eq_false (by omega)

/-- While idle, a CTRL write of a command is its acceptance. -/
theorem writeEffect_of_completes {i : Instr} (s : State) (h : completes i = true) :
    writeEffect i s = s.accept i.op i.round := by
  cases i <;> simp_all [completes, writeEffect, Instr.op, Instr.round]

/-! ### What an effect leaves alone -/

/-- The fields no completion effect touches. -/
def SameOutsideResults (s t : State) : Prop :=
  t = { s with work := t.work, dout := t.dout, rk := t.rk, keyValid := t.keyValid }

theorem effect_same (i : Instr) (s : State) : SameOutsideResults s (effect i s) := by
  unfold SameOutsideResults
  have he : s.ensureKey = { s with rk := s.ensureKey.rk, keyValid := s.ensureKey.keyValid } := by
    unfold State.ensureKey
    split <;> rfl
  cases i <;> simp only [effect]
  case enc | dec => simp only [encEffect, decEffect, State.storeWork]; rw [he]
  case ark =>
    split
    · simp only [arkEffect, State.transformWork, State.storeWork]; rw [he]
    · rfl
  all_goals rfl

/-- The implicit expansion leaves the current schedule, cached or not (40_key_schedule.md R118, R119). -/
theorem ensureKey_eq {s : State} (h : KeyCacheCurrent s) :
    s.ensureKey = { s with rk := scheduleOf s.key s.len, keyValid := true } := by
  unfold State.ensureKey
  split
  · rename_i hk
    rw [← h hk, ← hk]
  · rfl

end Sys2Proof.Machine
end

