-- ==== Sys2Proof/Laws/PerInstr.lean ====
section
/-! SUPPORT. The per-instruction family EncodeFields: the encoding of every instruction carries its opcode in v[3:0], its
ROUND in v[7:4] and zeros in the reserved bits (30_encoding.md R85, R93). -/

namespace Sys2Proof.Laws.EncodeFields

/-- The fields of the encoding of `i`. -/
def Statement (i : Instr) : Prop :=
  opField (encode i) = i.op ∧ roundField (encode i) = i.round ∧ (encode i).extractLsb' 8 24 = 0

/-- The fields of a zero-extended byte, for every pair of four-bit fields. -/
theorem of_byte (op rnd : BitVec 4) :
    opField ((rnd ++ op).setWidth 32) = op ∧ roundField ((rnd ++ op).setWidth 32) = rnd ∧
      ((rnd ++ op).setWidth 32 : Word).extractLsb' 8 24 = 0 := by
  revert op rnd
  decide +kernel

theorem nop (rnd : BitVec 4) : Statement (.nop rnd) := of_byte _ _

theorem keyexp (rnd : BitVec 4) : Statement (.keyexp rnd) := of_byte _ _

theorem enc (rnd : BitVec 4) : Statement (.enc rnd) := of_byte _ _

theorem dec (rnd : BitVec 4) : Statement (.dec rnd) := of_byte _ _

theorem load (rnd : BitVec 4) : Statement (.load rnd) := of_byte _ _

theorem sub (rnd : BitVec 4) : Statement (.sub rnd) := of_byte _ _

theorem isub (rnd : BitVec 4) : Statement (.isub rnd) := of_byte _ _

theorem shr (rnd : BitVec 4) : Statement (.shr rnd) := of_byte _ _

theorem ishr (rnd : BitVec 4) : Statement (.ishr rnd) := of_byte _ _

theorem mix (rnd : BitVec 4) : Statement (.mix rnd) := of_byte _ _

theorem imix (rnd : BitVec 4) : Statement (.imix rnd) := of_byte _ _

theorem ark (rnd : BitVec 4) : Statement (.ark rnd) := of_byte _ _

theorem arkBadRound11 : Statement .arkBadRound11 := of_byte _ _

theorem arkBadRound12 : Statement .arkBadRound12 := of_byte _ _

theorem arkBadRound13 : Statement .arkBadRound13 := of_byte _ _

theorem arkBadRound14 : Statement .arkBadRound14 := of_byte _ _

theorem arkBadRound15 : Statement .arkBadRound15 := of_byte _ _

theorem illegal (op rnd : BitVec 4) : Statement (.illegal op rnd) := of_byte _ _

end Sys2Proof.Laws.EncodeFields
end

