-- ==== Sys2Proof/Laws/Step.lean ====
section
/-! SUPPORT. What a step does, once: a completion, or the host's next operation, which looks at the core, writes a register or
resets it. -/

namespace Sys2Proof.Machine

/-! ### A register write at the host's turn -/

/-- The state after a host write of `v` to register `r` (10_state.md R20 to R37, 42_block_cipher.md R180). -/
def written (r : Reg) (v : Word) (s : State) : State :=
  match r with
  | .ctrl => if s.busy then s.raise .busyWrite else writeEffect (decode v) s
  | .status => s.writeStatus v
  | .keylen => s.writeKeylen v
  | .inten => s.writeInten v
  | .key k => s.writeKey k v
  | .din k => s.writeDin k v
  | .dout _ => s
  | .rkidx => s.writeRkidx v
  | .rkdata => s
  | .id => s
  | .reserved => s

theorem writeReg_eq_written (r : Reg) (v : Word) {s : State} (h : s.turn = .host) :
    s.writeReg r v = .next (written r v s) := by
  cases r <;> simp only [State.writeReg, written]
  cases hb : s.busy
  · simp [exec_idle _ hb]
  · simp [exec_busy _ h hb]

/-- A host write never refuses. -/
theorem writeReg_not_refused (s : State) (r : Reg) (v : Word) (f : Refusal) : s.writeReg r v ≠ .refused f := by
  cases r <;> simp [State.writeReg, exec_not_refused]

/-! ### A host operation -/

/-- What a host operation that answers a next state does: it only looks, it writes a register, or it resets. -/
theorem hostOp_cases {op : HostOp} {rest : List HostOp} {s u : State} (ht : s.turn = .host)
    (h : hostOp op rest s = .next u) :
    (∃ p tr, (p = rest ∨ p = op :: rest) ∧ u = { s with program := p, trace := tr }) ∨
    (∃ a off v, op = .write .word a v ∧ windowOffset a = some off ∧ u = written (regOf off) v (s.withProgram rest)) ∨
    (op = .reset ∧ u = (s.withProgram rest).resetEvent) := by
  cases op with
  | read size a =>
    left
    cases size <;> simp only [hostOp, onWindow] at h <;> try contradiction
    split at h
    · injection h with h
      subst h
      exact ⟨_, _, .inl rfl, rfl⟩
    · contradiction
  | write size a v =>
    right; left
    cases size <;> simp only [hostOp, onWindow] at h <;> try contradiction
    split at h
    · rename_i off ho
      rw [State.writeOff, writeReg_eq_written _ _ (by simpa using ht)] at h
      injection h with h
      exact ⟨a, off, v, rfl, ho, h.symm⟩
    · contradiction
  | wait =>
    left
    injection h with h
    subst h
    refine ⟨_, _, ?_, rfl⟩
    split <;> simp
  | sampleIrq =>
    left
    injection h with h
    subst h
    exact ⟨_, _, .inl rfl, rfl⟩
  | waitIrq =>
    left
    injection h with h
    subst h
    refine ⟨_, _, ?_, rfl⟩
    split <;> simp
  | reset =>
    right; right
    injection h with h
    exact ⟨rfl, h.symm⟩
  | otherMaster => simp [hostOp] at h

/-! ### A step -/

/-- The four things a step that answers a next state can be: the completion of the pending command, a turn of the host that
only looks (or has nothing to do), a register write, or the reset event. -/
theorem step_cases {s t : State} (h : step s = .next t) :
    (s.turn = .core ∧ ∃ op rnd, s.seq = .busy op rnd ∧ commandPair op rnd = true ∧
      t = (effect (instrOfFields op rnd) s).finish op) ∨
    (s.turn = .host ∧ ∃ p tr w, (w = if s.busy then s.wait - 1 else s.wait) ∧
      t = { s with program := p, trace := tr, wait := w }) ∨
    (s.turn = .host ∧ ∃ r v rest, WritesNext s r v ∧ (∃ op, s.program = op :: rest) ∧
      t = if s.busy then (written r v (s.withProgram rest)).tick else written r v (s.withProgram rest)) ∨
    (s.turn = .host ∧ ∃ rest, s.program = .reset :: rest ∧ t = (s.withProgram rest).resetEvent) := by
  unfold step at h
  split at h
  · rename_i ht
    left
    refine ⟨ht, ?_⟩
    obtain ⟨-, op, rnd, hs⟩ := turn_core_iff.1 ht
    simp only [coreTurn, hs] at h
    cases hc : commandPair op rnd
    · rw [exec_core_fault ht (by rw [completes_instrOfFields, hc])] at h
      contradiction
    · rw [exec_core ht (by rw [completes_instrOfFields, hc]), op_instrOfFields] at h
      injection h with h
      exact ⟨op, rnd, hs, hc, h.symm⟩
  · rename_i ht
    right
    unfold hostTurn at h
    split at h
    · injection h with h
      left
      refine ⟨ht, s.program, s.trace, _, rfl, ?_⟩
      rw [← h, State.tick_eq]
    · rename_i op rest hp
      cases ho : hostOp op rest s with
      | next u =>
        rw [ho] at h
        injection h with h
        rcases hostOp_cases ht ho with ⟨p, tr, -, rfl⟩ | ⟨a, off, v, rfl, hoff, rfl⟩ | ⟨rfl, rfl⟩
        · left
          refine ⟨ht, p, tr, _, rfl, ?_⟩
          rw [← h]
          cases hs : s.seq <;> simp [State.tick, State.busy, hs]
        · right; left
          exact ⟨ht, _, v, rest, ⟨a, off, rest, hp, hoff, rfl⟩, ⟨_, hp⟩, h.symm⟩
        · right; right
          refine ⟨ht, rest, hp, ?_⟩
          rw [← h]
          split <;> rfl
      | fault f => rw [ho] at h; simp [onNext] at h
      | refused r => rw [ho] at h; simp [onNext] at h

/-- A step faults only at the core's turn, on a pair no acceptance records. -/
theorem step_fault {s : State} {f : Fault} (h : step s = .fault f) :
    ∃ op rnd, s.seq = .busy op rnd ∧ commandPair op rnd = false := by
  unfold step at h
  split at h
  · rename_i ht
    obtain ⟨-, op, rnd, hs⟩ := turn_core_iff.1 ht
    refine ⟨op, rnd, hs, ?_⟩
    simp only [coreTurn, hs] at h
    by_contra hc
    rw [exec_core ht (by rw [completes_instrOfFields]; simpa using hc)] at h
    contradiction
  · rename_i ht
    unfold hostTurn at h
    split at h
    · contradiction
    · rename_i op rest hp
      have hw : ∀ (off : BitVec 8) (v : Word) (f : Fault), (s.withProgram rest).writeOff off v ≠ .fault f := by
        intro off v f
        rw [State.writeOff, writeReg_eq_written _ _ (by simpa using ht)]
        simp
      cases op with
      | read size a => cases size <;> simp only [hostOp, onWindow] at h <;> (try split at h) <;> simp [onNext] at h
      | write size a v =>
        cases size <;> simp only [hostOp, onWindow] at h
        case word =>
          split at h
          · cases ho : (s.withProgram rest).writeOff ‹_› v with
            | fault f' => exact absurd ho (hw _ _ _)
            | next u => rw [ho] at h; simp [onNext] at h
            | refused r => rw [ho] at h; simp [onNext] at h
          · simp [onNext] at h
        all_goals simp [onNext] at h
      | _ => simp [hostOp, onNext] at h

/-- While BUSY at the host's turn a register write leaves the command in flight, its operands and the results alone. -/
theorem written_busy_keeps (r : Reg) (v : Word) {s : State} (hb : s.busy = true) :
    ∃ d i1 i2 x e c, written r v s = { s with done := d, doneIe := i1, errIe := i2, idx := x, err := e, errCode := c } := by
  have hr : ∃ e c, s.raise .busyWrite = { s with err := e, errCode := c } := by
    unfold State.raise
    split
    · exact ⟨s.err, s.errCode, rfl⟩
    · exact ⟨_, _, rfl⟩
  obtain ⟨e, c, hr⟩ := hr
  cases r <;> simp only [written, State.writeKeylen, State.writeKey, State.writeDin, hb, if_true]
  case status =>
    unfold State.writeStatus
    split <;> split <;> exact ⟨_, _, _, _, _, _, rfl⟩
  case inten => exact ⟨s.done, _, _, s.idx, s.err, s.errCode, rfl⟩
  case rkidx => exact ⟨s.done, s.doneIe, s.errIe, _, s.err, s.errCode, rfl⟩
  case dout | rkdata | id | reserved => exact ⟨s.done, s.doneIe, s.errIe, s.idx, s.err, s.errCode, rfl⟩
  all_goals exact ⟨s.done, s.doneIe, s.errIe, s.idx, e, c, hr⟩

end Sys2Proof.Machine
end

