-- ==== Sys2Proof/Laws/Writes.lean ====
section
/-! SUPPORT. What a register write does, by cases: while idle and while BUSY (42_block_cipher.md R180, 60_exceptions.md
R222). -/

namespace Sys2Proof.Machine

/-- Recording an error touches ERR and ERRCODE alone, and the first error is kept (60_exceptions.md R221). -/
theorem raise_eq (s : State) (e : ErrCode) :
    ∃ b c, s.raise e = { s with err := b, errCode := c } ∧ b = true ∧ c = if s.err then s.errCode else e.code := by
  unfold State.raise
  split
  · refine ⟨s.err, s.errCode, rfl, by assumption, by simp⟩
  · exact ⟨_, _, rfl, rfl, by simp⟩

/-- A STATUS write as one update of its three fields (10_state.md R22). -/
theorem writeStatus_eq (s : State) (v : Word) :
    s.writeStatus v = { s with done := s.done && !v.getLsbD 1, err := s.err && !v.getLsbD 3,
                               errCode := if v.getLsbD 3 then 0 else s.errCode } := by
  unfold State.writeStatus
  cases h1 : v.getLsbD 1 <;> cases h3 : v.getLsbD 3 <;> simp [State.clearErr, State.clearDone]

theorem decode_wf (v : Word) : (decode v).wf = true := by
  have key : ∀ op rnd : BitVec 4, (instrOfFields op rnd).wf = true := by decide +kernel
  exact key _ _

theorem op_decode (v : Word) : (decode v).op = opField v := op_instrOfFields _ _

theorem round_decode (v : Word) : (decode v).round = roundField v := round_instrOfFields _ _

/-- A CTRL write while idle is an acceptance, NOP's, or a rejection (42_block_cipher.md R180). -/
theorem writeEffect_cases (i : Instr) (hw : i.wf = true) (s : State) :
    (commandPair i.op i.round = true ∧ writeEffect i s = s.accept i.op i.round) ∨
    (commandPair i.op i.round = false ∧
      ((∃ r, i = .nop r ∧ writeEffect i s = s.acceptNop r) ∨
        (12 ≤ i.op.toNat ∧ writeEffect i s = s.raise .illegalOp) ∨
        (i.op = 0xB ∧ 10 < i.round.toNat ∧ writeEffect i s = s.raise .badRound))) := by
  cases hc : completes i
  · right
    refine ⟨by rw [← completes_iff_pair hw, hc], ?_⟩
    cases i <;> simp_all [completes, writeEffect, Instr.op, Instr.round, Instr.wf]
  · left
    exact ⟨by rw [← completes_iff_pair hw, hc], writeEffect_of_completes s hc⟩

/-- A register write while idle, by register and value. -/
theorem idle_written (r : Reg) (v : Word) (s : State) (hb : s.busy = false) :
    (r = .ctrl ∧ commandPair (opField v) (roundField v) = true ∧ written r v s = s.accept (opField v) (roundField v)) ∨
    (r = .ctrl ∧ opField v = 0 ∧ written r v s = s.acceptNop (roundField v)) ∨
    (r = .ctrl ∧ 12 ≤ (opField v).toNat ∧ written r v s = s.raise .illegalOp) ∨
    (r = .ctrl ∧ opField v = 0xB ∧ 10 < (roundField v).toNat ∧ written r v s = s.raise .badRound) ∨
    (r = .status ∧ written r v s = s.writeStatus v) ∨
    (r = .keylen ∧ written r v s = { s with len := v.extractLsb' 0 5, keyValid := false }) ∨
    (r = .inten ∧ written r v s = s.writeInten v) ∨
    (∃ k, r = .key k ∧ written r v s = { s with key := s.key.set k v, keyValid := false }) ∨
    (∃ k, r = .din k ∧ written r v s = { s with din := s.din.set k v }) ∨
    (r = .rkidx ∧ written r v s = s.writeRkidx v) ∨
    (written r v s = s ∧ r ≠ .ctrl ∧ r ≠ .status ∧ r ≠ .keylen ∧ r ≠ .inten ∧ (∀ k, r ≠ .key k) ∧ (∀ k, r ≠ .din k) ∧
      r ≠ .rkidx) := by
  cases r <;> simp [written, State.writeKeylen, State.writeKey, State.writeDin, hb]
  rcases writeEffect_cases (decode v) (decode_wf v) s with ⟨hc, he⟩ | ⟨hc, ⟨r, hi, he⟩ | ⟨ho, he⟩ | ⟨ho, hr, he⟩⟩
  · left; rw [op_decode, round_decode] at hc he; exact ⟨hc, he⟩
  · right; left
    have h1 := op_decode v; have h2 := round_decode v
    rw [hi] at h1 h2
    simp [Instr.op, Instr.round] at h1 h2
    rw [he, h2]; exact ⟨h1.symm, rfl⟩
  · right; right; left; rw [op_decode] at ho; exact ⟨ho, he⟩
  · right; right; right; rw [op_decode] at ho; rw [round_decode] at hr; exact ⟨ho, hr, he⟩

/-- A register write while BUSY, by register: the operand writes are discarded with BUSY_WRITE (60_exceptions.md R222). -/
theorem busy_written (r : Reg) (v : Word) (s : State) (hb : s.busy = true) :
    ((r = .ctrl ∨ r = .keylen ∨ (∃ k, r = .key k) ∨ ∃ k, r = .din k) ∧ written r v s = s.raise .busyWrite) ∨
    (r = .status ∧ written r v s = s.writeStatus v) ∨
    (r = .inten ∧ written r v s = s.writeInten v) ∨
    (r = .rkidx ∧ written r v s = s.writeRkidx v) ∨
    (written r v s = s ∧ r ≠ .status ∧ r ≠ .inten ∧ r ≠ .rkidx) := by
  cases r <;> simp [written, State.writeKeylen, State.writeKey, State.writeDin, hb]

/-- The register write the next host operation makes is one. -/
theorem WritesNext.unique {s : State} {r r' : Reg} {v v' : Word} (h : WritesNext s r v) (h' : WritesNext s r' v') :
    r = r' ∧ v = v' := by
  obtain ⟨a, off, rest, hp, ho, rfl⟩ := h
  obtain ⟨a', off', rest', hp', ho', rfl⟩ := h'
  rw [hp] at hp'
  injection hp' with h1 h2
  injection h1 with h3 h4 h5
  subst h4 h5
  rw [ho] at ho'
  injection ho' with h6
  subst h6
  exact ⟨rfl, rfl⟩

/-- A step at the host's turn whose next operation writes a register makes that write (20_memory.md R62). -/
theorem step_write {s : State} {r : Reg} {v : Word} (ht : s.turn = .host) (h : WritesNext s r v) :
    ∃ rest, step s = .next
      (if s.busy then (written r v (s.withProgram rest)).tick else written r v (s.withProgram rest)) := by
  obtain ⟨a, off, rest, hp, ho, rfl⟩ := h
  refine ⟨rest, ?_⟩
  simp only [step, ht, hostTurn, hp, hostOp, onWindow, ho, State.writeOff]
  rw [writeReg_eq_written _ _ (by simpa using ht)]
  rfl

/-- The four things a step that answers a next state can be, for reading single fields: the `wait` counter is left open. -/
theorem step_fields {s t : State} (h : step s = .next t) :
    (∃ op rnd, s.turn = .core ∧ Completing s op ∧ s.busy = true ∧ s.seq = .busy op rnd ∧ commandPair op rnd = true ∧
      t = (effect (instrOfFields op rnd) s).finish op) ∨
    (s.turn = .host ∧ ∃ p tr w, t = { s with program := p, trace := tr, wait := w }) ∨
    (∃ r v p w, s.turn = .host ∧ WritesNext s r v ∧
      ((s.busy = true ∧ t = { written r v (s.withProgram p) with wait := w }) ∨
        (s.busy = false ∧ t = written r v (s.withProgram p)))) ∨
    (s.turn = .host ∧ ResetsNext s ∧ ∃ p, t = (s.withProgram p).resetEvent) := by
  rcases step_cases h with ⟨ht, op, rnd, hq, hc, rfl⟩ | ⟨ht, p, tr, w, -, rfl⟩ | ⟨ht, r, v, rest, hn, -, rfl⟩ |
    ⟨ht, rest, hp, rfl⟩
  · exact .inl ⟨op, rnd, ht, ⟨ht, rnd, hq⟩, busy_of_turn_core ht, hq, hc, rfl⟩
  · exact .inr (.inl ⟨ht, _, _, _, rfl⟩)
  · refine .inr (.inr (.inl ⟨r, v, rest, (written r v (s.withProgram rest)).tick.wait, ht, hn, ?_⟩))
    cases hb : s.busy
    · right
      simp
    · left
      simp only [if_true]
      rw [State.tick_eq]
      simp
  · exact .inr (.inr (.inr ⟨ht, ⟨rest, hp⟩, rest, rfl⟩))

/-! ### What an effect touches, by opcode -/

/-- Only an expansion touches RK and KEY_VALID: KEYEXP, and ENC, DEC and ARK where KEY_VALID = 0 (40_key_schedule.md R119,
R120). -/
theorem effect_keeps_schedule (op rnd : BitVec 4) (s : State) :
    ((effect (instrOfFields op rnd) s).keyValid = s.keyValid ∧ (effect (instrOfFields op rnd) s).rk = s.rk) ∨
      (op = 0x1 ∨ (s.keyValid = false ∧ (op = 0x2 ∨ op = 0x3 ∨ op = 0xB))) := by
  have ho := op_instrOfFields op rnd
  generalize instrOfFields op rnd = i at ho
  subst ho
  cases hk : s.keyValid <;> cases i <;> simp [effect, encEffect, decEffect, arkEffect, Instr.op, hk]
  split <;> simp [hk]

/-- KEYEXP touches neither S nor DOUT (40_key_schedule.md R120). -/
theorem effect_keeps_results (op rnd : BitVec 4) (s : State) :
    ((effect (instrOfFields op rnd) s).work = s.work ∧ (effect (instrOfFields op rnd) s).dout = s.dout) ∨ op ≠ 0x1 := by
  have ho := op_instrOfFields op rnd
  generalize instrOfFields op rnd = i at ho
  subst ho
  cases i <;> simp [effect, Instr.op]

/-- No completion clears KEY_VALID (10_state.md R25). -/
theorem effect_keeps_keyValid (op rnd : BitVec 4) (s : State) (h : s.keyValid = true) :
    (effect (instrOfFields op rnd) s).keyValid = true := by
  generalize instrOfFields op rnd = i
  have h1 : s.ensureKey.keyValid = true := by unfold State.ensureKey; simp [h]
  cases i <;> simp [effect, encEffect, decEffect, h]
  split
  · exact h1
  · exact h

theorem not_completing_of_host {s : State} (ht : s.turn = .host) (op : BitVec 4) : ¬Completing s op := by
  simp [Completing, ht]

end Sys2Proof.Machine
end

