-- ==== Sys2Proof/Laws/Run.lean ====
section
/-! SUPPORT. Runs: one step more, and runs one after the other. -/

namespace Sys2Proof.Machine

theorem run_succ_next (M : Host.Core) {s t : M.State} {n : Nat} (h : M.step s = .next t) : M.run (n + 1) s = M.run n t := by
  simp [Host.Core.run, h]

theorem run_succ_fault (M : Host.Core) {s : M.State} {n : Nat} {f : M.Fault} (h : M.step s = .fault f) :
    M.run (n + 1) s = .fault f := by simp [Host.Core.run, h]

theorem run_succ_refused (M : Host.Core) {s : M.State} {n : Nat} {r : M.Refusal} (h : M.step s = .refused r) :
    M.run (n + 1) s = .refused r := by simp [Host.Core.run, h]

/-- A run of `n` steps, then one of `m`, is a run of `n + m`. -/
theorem run_add (M : Host.Core) {n m : Nat} {s t : M.State} (h : M.run n s = .next t) : M.run (n + m) s = M.run m t := by
  induction n generalizing s with
  | zero =>
    cases h
    simp
  | succ n ih =>
    rw [show n + 1 + m = n + m + 1 by omega]
    cases hs : M.step s with
    | next u =>
      rw [run_succ_next M hs] at h ⊢
      exact ih h
    | fault f =>
      rw [run_succ_fault M hs] at h
      contradiction
    | refused r =>
      rw [run_succ_refused M hs] at h
      contradiction

/-! ### Single host operations while idle -/

/-- A host write while idle (20_memory.md R62). -/
theorem step_idle_write {s : State} {off : BitVec 8} {v : Word} {rest : List HostOp} (hb : s.busy = false)
    (hp : s.program = .write .word (.window off) v :: rest) :
    step s = .next (written (regOf off) v (s.withProgram rest)) := by
  have ht := turn_host_of_not_busy hb
  simp only [step, ht, hostTurn, hp, hostOp, onWindow, windowOffset, State.writeOff]
  rw [writeReg_eq_written _ _ (by simpa using ht)]
  simp [onNext, hb]

/-- A host read while idle (20_memory.md R67). -/
theorem step_idle_read {s : State} {off : BitVec 8} {rest : List HostOp} (hb : s.busy = false)
    (hp : s.program = .read .word (.window off) :: rest) :
    step s = .next { s with program := rest, trace := .read off (s.readOff off) :: s.trace } := by
  have ht := turn_host_of_not_busy hb
  simp only [step, ht, hostTurn, hp, hostOp, onWindow, windowOffset, onNext, hb]
  rfl

end Sys2Proof.Machine
end

