-- ==== Sys2Proof/Laws/Text.lean ====
section
/-! SUPPORT. What lossy decoding takes off a byte sequence: a character takes at least one byte, an invalid sequence at least
one and only bytes at which no character begins, and enough fuel is enough. -/

namespace Sys2Proof.Machine

/-- No byte in a run is the beginning of a character. -/
theorem utf8Head_drop_of_lt_run {bs : List Byte} {j : Nat} (h : j < invalidRun bs) : utf8Head (bs.drop j) = none := by
  induction bs generalizing j with
  | nil => simp [invalidRun] at h
  | cons b rest ih =>
    simp only [invalidRun] at h
    split at h
    · omega
    · rename_i hb
      cases j with
      | zero => simpa using hb
      | succ j => exact ih (by omega)

theorem invalidRun_le_length (bs : List Byte) : invalidRun bs ≤ bs.length := by
  induction bs with
  | nil => simp [invalidRun]
  | cons b rest ih =>
    simp only [invalidRun, List.length_cons]
    split <;> omega

/-- Where no character begins, the run has at least one byte. -/
theorem invalidRun_cons {b : Byte} {rest : List Byte} (h : utf8Head (b :: rest) = none) :
    invalidRun (b :: rest) = invalidRun rest + 1 := by simp [invalidRun, h]

/-- What an invalid sequence takes in: between one byte and the whole run. -/
theorem invalidLength_bounds {b : Byte} {rest : List Byte} (h : utf8Head (b :: rest) = none) :
    1 ≤ invalidLength (b :: rest) ∧ invalidLength (b :: rest) ≤ invalidRun (b :: rest) := by
  have := invalidRun_cons h
  unfold invalidLength
  omega

/-- A character takes at least one byte. -/
theorem utf8Head_length {bs rest : List Byte} {c : Char} (h : utf8Head bs = some (c, rest)) : rest.length < bs.length := by
  unfold utf8Head at h
  split at h
  · contradiction
  · split at h
    · injection h with h
      injection h with _ h
      subst h
      simp
    · split at h
      · split at h
        · simp [Option.bind_eq_some_iff] at h
          obtain ⟨_, _, _, _, rfl⟩ := h
          simp
        · contradiction
      · split at h
        · split at h
          · simp [Option.bind_eq_some_iff] at h
            obtain ⟨_, _, _, _, _, _, _, rfl⟩ := h
            simp
            omega
          · contradiction
        · split at h
          · split at h
            · simp [Option.bind_eq_some_iff] at h
              obtain ⟨_, _, _, _, _, _, _, _, _, rfl⟩ := h
              simp
              omega
            · contradiction
          · contradiction

/-- Fuel for every byte is enough, and more changes nothing. -/
theorem decodeUpTo_eq (p : TextPolicy) {n : Nat} {bs : List Byte} (h : bs.length ≤ n) :
    decodeUpTo p n bs = textDecode p bs := by
  have key : ∀ (m n : Nat) (bs : List Byte), bs.length ≤ m → bs.length ≤ n → decodeUpTo p m bs = decodeUpTo p n bs := by
    intro m
    induction m with
    | zero =>
      intro n bs hm _
      rw [List.length_eq_zero_iff.1 (by omega : bs.length = 0)]
      cases n <;> rfl
    | succ m ih =>
      intro n bs hm hn
      cases n with
      | zero =>
        rw [List.length_eq_zero_iff.1 (by omega : bs.length = 0)]
        rfl
      | succ n =>
        cases bs with
        | nil => rfl
        | cons b bs =>
          simp only [decodeUpTo]
          split
          · rename_i c rest hc
            have := utf8Head_length hc
            simp only [List.length_cons] at *
            rw [ih n rest (by omega) (by omega)]
          · rename_i hc
            have := invalidLength_bounds hc
            have hd : ((b :: bs).drop (invalidLength (b :: bs))).length = bs.length + 1 - invalidLength (b :: bs) := by simp
            simp only [List.length_cons] at hm hn
            rw [ih n _ (by omega) (by omega)]
  exact key _ _ _ h (Nat.le_refl _)

end Sys2Proof.Machine
end

