-- ==== Sys2Proof/Tests/Slice0.lean ====
section
/-! SUPPORT. Tests: the refusals of WellFormed, words written out from 30_encoding.md R85, R86, one step of each instruction
with its result from 95_test_vectors.md (the vector is named), and for every statement with hypotheses a witness that meets
them. -/

namespace Sys2Proof.Tests

open Sys2Proof.Machine

/-! ### Helpers -/

/-- `p` of the next state; false of a stop. -/
def nextIs (o : Result) (p : State → Bool) : Bool :=
  match o with
  | .next t => p t
  | .fault _ => false
  | .refused _ => false

/-- The state after a step, or the state itself at a stop. -/
def after (s : State) : State :=
  match step s with
  | .next t => t
  | .fault _ => s
  | .refused _ => s

/-- A state whose host has one operation to do. -/
def host (op : HostOp) (s : State) : State := { s with program := [op] }

/-- A state whose command `(op, rnd)` is due to complete. -/
def pend (op rnd : BitVec 4) (s : State) : State :=
  { s with seq := .busy op rnd, ctrlRb := rnd ++ op, done := false, wait := 0 }

/-- A state whose command `(op, rnd)` is in flight at the host's turn. -/
def inFlight (op rnd : BitVec 4) (s : State) : State :=
  { s with seq := .busy op rnd, ctrlRb := rnd ++ op, done := false, wait := 1 }

/-- Reset with the key, DIN and S given as words. -/
def core0 (key din work : Four Word) : State := { State.reset with key := key, din := din, work := w2b work }

def zeros : Four Word := Four.fill 0

/-- The key 000102..0f of 95_test_vectors.md. -/
def key1 : Four Word := ⟨0x00010203, 0x04050607, 0x08090a0b, 0x0c0d0e0f⟩

/-- The block 001122..ff of 95_test_vectors.md. -/
def block1 : Four Word := ⟨0x00112233, 0x44556677, 0x8899aabb, 0xccddeeff⟩

/-- A state with an error recorded. -/
def failed : State := { State.reset with err := true, errCode := 1 }

/-! ### WellFormed refuses the ill-formed terms -/

theorem test_wf_ark_round_11 : (Instr.ark 11).wf = false := by decide

theorem test_wf_ark_round_10 : (Instr.ark 10).wf = true := by decide

theorem test_wf_illegal_opcode_11 : (Instr.illegal 11 0).wf = false := by decide

theorem test_wf_illegal_opcode_12 : (Instr.illegal 12 0).wf = true := by decide

/-! ### Decoding, words written out bit by bit (30_encoding.md R85, R86, R89) -/

/-- ROUND 1010, OP 1011. -/
theorem test_decode_ark_10 : decode 0b00000000000000000000000010101011 = .ark 10 := by decide

/-- ROUND 1011, OP 1011. -/
theorem test_decode_bad_round_11 : decode 0b00000000000000000000000010111011 = .arkBadRound11 := by decide

/-- ROUND 1111, OP 1011, reserved bits set. -/
theorem test_decode_bad_round_15 : decode 0b11111111111111111111111111111011 = .arkBadRound15 := by decide

/-- OP 0010 with ROUND 0001 and reserved bits set. -/
theorem test_decode_enc : decode 0b10000000000000000000000100010010 = .enc 1 := by decide

/-- OP 0001. -/
theorem test_decode_keyexp : decode 0b00000000000000000000000000000001 = .keyexp 0 := by decide

/-- OP 1010. -/
theorem test_decode_imix : decode 0b00000000000000000000000000001010 = .imix 0 := by decide

/-- OP 1100, the lowest illegal opcode. -/
theorem test_decode_illegal : decode 0b00000000000000000000000000001100 = .illegal 12 0 := by decide

/-- OP 0000 with ROUND 0011. -/
theorem test_decode_nop : decode 0b00000000000000000000000000110000 = .nop 3 := by decide

theorem test_decodeTableWord : decodeTableWord 32 0x000000AB = some (.ark 10) := by decide

theorem test_encode_ark_10 : encode (.ark 10) = 0x000000AB := by decide

/-! ### The commands -/

/-- 42_block_cipher.md R180: ENC with ROUND 0 accepted at reset; STATUS reads BUSY alone (P1 step 11). -/
theorem test_accept_enc :
    nextIs (step (State.reset.withFetchWord 32 0x00000002)) (fun t =>
      t.seq == .busy 2 0 && t.readReg .ctrl == 0x00000002 && t.readReg .status == 0x00000001) = true := by decide

/-- KS-1, w[43], and P4: KEYEXP leaves DOUT alone. -/
theorem test_keyexp :
    nextIs (step (pend 1 0 (core0 ⟨0x2b7e1516, 0x28aed2a6, 0xabf71588, 0x09cf4f3c⟩ zeros zeros))) (fun t =>
      pack t.rk[43] == 0xb6630ca6 && t.dout == zeros && t.readReg .status == 0x00000106) = true := by decide

/-- BC-1, with STATUS of P1. -/
theorem test_enc :
    nextIs (step (pend 2 0 (core0 key1 block1 zeros))) (fun t =>
      t.dout == ⟨0x69c4e0d8, 0x6a7b0430, 0xd8cdb780, 0x70b4c55a⟩ && t.readReg .status == 0x00000206) = true := by
  decide +kernel

/-- DB-2. -/
theorem test_dec :
    nextIs (step (pend 3 0 (core0 key1 block1 zeros))) (fun t =>
      t.dout == ⟨0x762a5ab5, 0x0929189c, 0xefdb9943, 0x4790aad8⟩ && t.readReg .status == 0x00000306) = true := by
  decide +kernel

/-- P3 step 11. -/
theorem test_load :
    nextIs (step (pend 4 0 (core0 key1 block1 zeros))) (fun t =>
      t.dout == block1 && t.work == w2b block1 && t.readReg .status == 0x00000402) = true := by decide

/-- ST-1. -/
theorem test_sub :
    nextIs (step (pend 5 0 (core0 zeros zeros key1))) (fun t =>
      t.dout == ⟨0x637c777b, 0xf26b6fc5, 0x3001672b, 0xfed7ab76⟩) = true := by decide

/-- ST-2. -/
theorem test_isub :
    nextIs (step (pend 6 0 (core0 zeros zeros key1))) (fun t =>
      t.dout == ⟨0x52096ad5, 0x3036a538, 0xbf40a39e, 0x81f3d7fb⟩) = true := by decide

/-- ST-5. -/
theorem test_shr :
    nextIs (step (pend 7 0 (core0 zeros zeros key1))) (fun t =>
      t.dout == ⟨0x00050a0f, 0x04090e03, 0x080d0207, 0x0c01060b⟩) = true := by decide

/-- ST-6. -/
theorem test_ishr :
    nextIs (step (pend 8 0 (core0 zeros zeros key1))) (fun t =>
      t.dout == ⟨0x000d0a07, 0x04010e0b, 0x0805020f, 0x0c090603⟩) = true := by decide

/-- ST-9. -/
theorem test_mix :
    nextIs (step (pend 9 0 (core0 zeros zeros ⟨0x6353e08c, 0x0960e104, 0xcd70b751, 0xbacad0e7⟩))) (fun t =>
      t.dout == ⟨0x5f726415, 0x57f5bc92, 0xf7be3b29, 0x1db9f91a⟩) = true := by decide

/-- MC-1, MC-2, MC-5 and MC-6, the InvMixColumn column. -/
theorem test_imix :
    nextIs (step (pend 10 0 (core0 zeros zeros ⟨0xdb135345, 0xf20a225c, 0xd4d4d4d5, 0x2d26314c⟩))) (fun t =>
      t.dout == ⟨0x32a41d55, 0xaec36982, 0xddd9dfda, 0xa05050d6⟩) = true := by decide

/-- AK-1. -/
theorem test_ark_0 :
    nextIs (step (pend 11 0 (core0 key1 zeros block1))) (fun t =>
      t.dout == ⟨0x00102030, 0x40506070, 0x8090a0b0, 0xc0d0e0f0⟩ && t.readReg .status == 0x00000b06) = true := by
  decide

/-- AK-2, the last round key. -/
theorem test_ark_10 :
    nextIs (step (pend 11 10 (core0 key1 zeros zeros))) (fun t =>
      t.dout == ⟨0x13111d7f, 0xe3944a17, 0xf307a78b, 0x4d2b30c5⟩) = true := by decide

/-- ER-9: a NOP with ROUND 3. -/
theorem test_nop :
    nextIs (step (State.withFetchWord { State.reset with ctrlRb := 0x02, done := true, lastOp := 2 } 32 0x30)) (fun t =>
      t.readReg .ctrl == 0x00000030 && t.readReg .status == 0x00000202) = true := by decide

/-- ER-1: an illegal opcode with ERR_IE set. -/
theorem test_illegal :
    nextIs (step (State.withFetchWord { State.reset with errIe := true } 32 0x0C)) (fun t =>
      t.readReg .status == 0x00001018 && t.irq) = true := by decide

/-- ER-4: OP 0xB with ROUND 11. -/
theorem test_bad_round :
    nextIs (step (State.withFetchWord { State.reset with errIe := true } 32 0xBB)) (fun t =>
      t.readReg .status == 0x00001038 && t.readReg .ctrl == 0x00000000) = true := by decide

/-- ER-2: the first error is kept. -/
theorem test_bad_round_15_keeps_the_first_error :
    nextIs (step (State.withFetchWord failed 32 0xFB)) (fun t => t.readReg .status == 0x00000018) = true := by
  decide

/-- AK-4's rounds 12 to 14 are rejected like 11 (60_exceptions.md R223). -/
theorem test_bad_rounds_12_to_14 :
    ([0xCB, 0xDB, 0xEB].all fun w => nextIs (step (State.reset.withFetchWord 32 w)) fun t =>
      t.errCode == 3 && t.seq == .idle) = true := by decide

/-- ER-6: the busy check comes first. -/
theorem test_busy_write_before_illegal_op :
    nextIs (step ((inFlight 2 0 State.reset).withFetchWord 32 0x0C)) (fun t =>
      t.errCode == 2 && t.seq == .busy 2 0) = true := by decide

/-! ### The window -/

/-- ER-3: clearing an error. -/
theorem test_clear_error :
    nextIs (step (host (hostW 0x04 0x00000008) failed)) (fun t => t.readReg .status == 0x00000000) = true := by
  decide

/-- NK-6: a KEYLEN write of 37 stores 5, and clears KEY_VALID. -/
theorem test_keylen_37 :
    nextIs (step (host (hostW 0x08 0x00000025) { State.reset with keyValid := true })) (fun t =>
      t.len == 5 && t.keyValid == false) = true := by decide

/-- R62: an access at 0x13 reaches KEY0 like one at 0x10. -/
theorem test_offset_low_bits_ignored :
    nextIs (step (host (hostW 0x13 0xAABBCCDD) State.reset)) (fun t => t.readOff 0x10 == 0xAABBCCDD) = true := by
  decide

/-- P4 steps 9 to 12: RKDATA at index 43 and beyond. -/
theorem test_rkdata :
    let s := { State.reset with rk := scheduleOf ⟨0x68656c6c, 0x6f000000, 0, 0⟩ 5, keyValid := true }
    State.readReg { s with idx := 43 } .rkdata = 0x17297fce ∧ State.readReg { s with idx := 44 } .rkdata = 0x00000000 := by
  decide

/-- ER-10. -/
theorem test_id : State.reset.readOff 0x48 = 0x41455331 := by decide

/-- ER-5: DIN0 written while BUSY. -/
theorem test_din_write_while_busy :
    nextIs (step (host (hostW 0x20 0xDEADBEEF) (inFlight 2 0 State.reset))) (fun t =>
      t.din == zeros && t.errCode == 2) = true := by decide

/-- The slots at the ends of their ranges (10_state.md R20). -/
theorem test_offset_boundaries :
    regOf 0x00 = .ctrl ∧ regOf 0x03 = .ctrl ∧ regOf 0x04 = .status ∧ regOf 0x0B = .keylen ∧ regOf 0x0C = .inten ∧
    regOf 0x10 = .key 0 ∧ regOf 0x1F = .key 3 ∧ regOf 0x20 = .din 0 ∧ regOf 0x2F = .din 3 ∧ regOf 0x30 = .dout 0 ∧
    regOf 0x3F = .dout 3 ∧ regOf 0x40 = .rkidx ∧ regOf 0x47 = .rkdata ∧ regOf 0x4B = .id ∧ regOf 0x4C = .reserved ∧
    regOf 0xFF = .reserved := by decide

/-! ### The codec -/

/-- HC-5, "hello world" under "0123456789abcdef". -/
theorem test_encrypt_hello_world :
    encryptMessage (utf8 "hello world".toList) (utf8 "0123456789abcdef".toList) =
      [0x81, 0x69, 0xbe, 0xd4, 0xef, 0x49, 0xa8, 0x87, 0x45, 0x59, 0xc5, 0xb2, 0x00, 0xda, 0xad, 0xe7] := by
  decide +kernel

/-- HC-9: the encryption of zeros fails with BAD_PADDING. -/
theorem test_bad_padding :
    decryptBytes [0x0b, 0x9b, 0x15, 0xda, 0x4b, 0x44, 0xa0, 0xf5, 0x15, 0x1d, 0xcf, 0xc4, 0xc0, 0x1f, 0x35, 0xd5]
      (utf8 "0123456789abcdef".toList) = .fail .badPadding := by decide +kernel

/-- HC-10, the key "short" and the empty message. -/
theorem test_short_key :
    encryptMessage [] (utf8 "short".toList) =
      [0xaa, 0xd0, 0xbf, 0x59, 0x6e, 0x9e, 0x03, 0x49, 0x9c, 0x13, 0xa0, 0x5b, 0x6b, 0x7c, 0x5c, 0xa7] := by
  decide +kernel

/-- R210: `ignore` drops the invalid byte FF, and the character after it stays. -/
theorem test_ignore_keeps_the_character_after : textDecode .ignore [0xFF, 0x41] = ['A'] := by
  have h : invalidLength [0xFF, 0x41] = 1 := by
    have hr : invalidRun [0xFF, 0x41] = 1 := by decide
    have := invalidLength_bounds (show utf8Head [0xFF, 0x41] = none by decide)
    omega
  simp only [textDecode, List.length_cons, List.length_nil, decodeUpTo, show utf8Head [0xFF, 0x41] = none by decide, h]
  decide

/-! ### Witnesses: states and operands that meet the hypotheses of the statements -/

/-- KEY_VALID = 1 with the current schedule. -/
def cached (s : State) : State := { s with rk := scheduleOf s.key s.len, keyValid := true }

/-- A completed ENC. -/
def finished : State := { State.reset with done := true, lastOp := 2 }

/-- A state that differs from reset in RK alone, where KEY_VALID = 0. -/
def otherRk : State := { State.reset with rk := Vector.replicate 44 (Four.fill 0xFF) }

theorem witness_DecodeOfEncodeIsTheInstruction :
    (Instr.ark 0).wf = true ∧ (Instr.ark 10).wf = true ∧ (Instr.illegal 12 0).wf = true ∧
      (Instr.illegal 15 15).wf = true := by decide

theorem witness_StepRunsTheDecodedInstruction_write :
    let s := host (hostW 0x03 0xAB) State.reset
    s.turn = .host ∧ s.program = [.write .word (.window 0x03) 0xAB] ∧ windowOffset (.window 0x03) = some 0x03 ∧
      (0x03 : BitVec 8).toNat < 4 := by decide

theorem witness_StepRunsTheDecodedInstruction_busy :
    let s := host (hostW 0x00 0x02) (inFlight 2 0 State.reset)
    s.turn = .host ∧ s.busy = true ∧ s.program = [.write .word (.window 0x00) 0x02] := by decide

theorem witness_StepRunsTheDecodedInstruction_pending :
    (pend 11 10 State.reset).turn = .core ∧ (pend 11 10 State.reset).seq = .busy 11 10 ∧ State.reset.busy = false := by
  decide

theorem witness_CommandIsAcceptedWhenIdle :
    State.reset.busy = false ∧
      (∀ i ∈ [Instr.keyexp 15, .enc 0, .dec 0, .load 0, .sub 0, .isub 0, .shr 0, .ishr 0, .mix 0, .imix 0, .ark 0, .ark 10],
        i.wf = true ∧ commandPair i.op i.round = true) := by decide

theorem witness_NopWritesOnlyTheReadback : State.reset.busy = false ∧ finished.busy = false := by decide

theorem witness_RejectedEncodingsRecordTheirErrorOnly :
    State.reset.busy = false ∧ failed.busy = false ∧ failed.err = true ∧ 10 < (11 : BitVec 4).toNat ∧
      10 < (15 : BitVec 4).toNat := by decide

theorem witness_CtrlWriteWhileBusyIsBusyWrite :
    (inFlight 2 0 State.reset).turn = .host ∧ (inFlight 2 0 State.reset).busy = true ∧
      (inFlight 2 0 failed).turn = .host ∧ (inFlight 2 0 failed).busy = true := by decide

theorem witness_KeyexpCompletes : (pend 1 0 State.reset).turn = .core := by decide

theorem witness_EncAndDecCompleteWithTheCipherOfDin :
    KeyCacheCurrent (pend 2 0 State.reset) ∧ (pend 2 0 State.reset).turn = .core ∧
      KeyCacheCurrent (pend 3 0 (cached State.reset)) ∧ (pend 3 0 (cached State.reset)).turn = .core := by decide

theorem witness_LoadCompletesWithDoutEqualToDin : (pend 4 0 State.reset).turn = .core := by decide

theorem witness_PrimitivesTransformTheWorkingState : (pend 5 0 State.reset).turn = .core := by decide

theorem witness_ArkCompletesWithTheRoundKeyAdded :
    KeyCacheCurrent (pend 11 0 State.reset) ∧ (pend 11 0 State.reset).turn = .core ∧ (0 : BitVec 4).toNat ≤ 10 ∧
      KeyCacheCurrent (pend 11 10 (cached State.reset)) ∧ (pend 11 10 (cached State.reset)).turn = .core ∧
      (10 : BitVec 4).toNat ≤ 10 := by decide

theorem witness_CompletionEndsTheCommandAndRecordsNoError :
    sequencerLegal (pend 11 10 failed) = true ∧ (pend 11 10 failed).turn = .core ∧
      (pend 11 10 failed).seq = .busy 11 10 := by decide

theorem witness_RkdataIsGatedByKeyValid :
    let s := cached State.reset
    (State.idx { s with idx := 43 }).toNat ≤ 43 ∧ State.keyValid { s with idx := 43 } = true ∧
      ¬(s.keyValid = true ∧ (State.idx { s with idx := 44 }).toNat ≤ 43) ∧
      ¬(State.reset.keyValid = true ∧ State.reset.idx.toNat ≤ 43) := by decide

theorem witness_ReadOnlyAndReservedWritesAreIgnored :
    0x4C ≤ (0x4C : BitVec 8).toNat ∧ 0x4C ≤ (0xFF : BitVec 8).toNat := by decide

theorem witness_OperandWritesWhenIdleAreReadBack : State.reset.busy = false ∧ (0 : Fin 4) ≠ 3 := by decide

theorem witness_WritesWhileBusy : (inFlight 1 0 State.reset).turn = .host ∧ (inFlight 1 0 State.reset).busy = true := by
  decide

theorem witness_RaiseKeepsTheFirstError : failed.err = true ∧ State.reset.err = false := by decide

theorem witness_HostReadHasNoSideEffect :
    let s := host (hostR 0x44) State.reset
    s.turn = .host ∧ s.program = [.read .word (.window 0x44)] ∧ windowOffset (.window 0x44) = some 0x44 := by decide

theorem witness_WaitAndIrqOperationsOfTheHost :
    (host .wait State.reset).turn = .host ∧ (host .wait State.reset).program = [.wait] ∧
      (host .wait (inFlight 2 0 State.reset)).turn = .host ∧ (host .wait (inFlight 2 0 State.reset)).busy = true ∧
      (host .sampleIrq State.reset).turn = .host ∧ (host .sampleIrq State.reset).program = [.sampleIrq] ∧
      (host .waitIrq State.reset).turn = .host ∧ (host .waitIrq State.reset).program = [.waitIrq] := by decide

theorem witness_OnlyAccessesOutsideTheInterfaceAreRefused :
    (host (.read .byte (.window 0x04)) State.reset).turn = .host ∧ AccessSize.byte ≠ .word ∧ AccessSize.half ≠ .word ∧
      (host .otherMaster State.reset).turn = .host ∧
      step (host .otherMaster State.reset) = .refused .secondBusMaster ∧
      step (host (.write .half (.window 0x00) 1) State.reset) = .refused .narrowAccess := ⟨rfl, by decide, by decide, rfl, rfl, rfl⟩

theorem witness_OnlyAccessesOutsideTheInterfaceAreRefused_window :
    let a : Address := .physical (Config.aesBase + 256)
    windowOffset a = none ∧ (host (.write .word a 1) State.reset).turn = .host := ⟨by simp [windowOffset], rfl⟩

theorem witness_ResetEventAbandonsTheCommand :
    (host .reset (inFlight 2 0 State.reset)).turn = .host ∧ (host .reset (inFlight 2 0 State.reset)).program = [.reset] := by
  decide

theorem witness_EveryStepKeepsTheInvariant_completion :
    Inv (pend 11 0 failed) ∧ step (pend 11 0 failed) = .next (after (pend 11 0 failed)) := ⟨by decide, rfl⟩

theorem witness_EveryStepKeepsTheInvariant_write :
    Inv (host (hostW 0x10 1) (cached State.reset)) ∧
      step (host (hostW 0x10 1) (cached State.reset)) = .next (after (host (hostW 0x10 1) (cached State.reset))) :=
  ⟨by decide, rfl⟩

theorem witness_KeyValidMeansTheScheduleIsCurrent :
    KeyCacheCurrent (host (hostW 0x08 5) (cached State.reset)) ∧ (cached State.reset).keyValid = true ∧
      step (host (hostW 0x08 5) (cached State.reset)) = .next (after (host (hostW 0x08 5) (cached State.reset))) :=
  ⟨by decide, rfl, rfl⟩

theorem witness_NoStepOfALegalStateFaults : Inv (pend 3 0 (cached State.reset)) := by decide

theorem writesNext_host (s : State) (off : BitVec 8) (v : Word) : WritesNext (host (hostW off v) s) (regOf off) v :=
  ⟨.window off, off, [], rfl, rfl, rfl⟩

theorem completing_pend (op rnd : BitVec 4) (s : State) : Completing (pend op rnd s) op := ⟨rfl, rnd, rfl⟩

theorem resetsNext_host (s : State) : ResetsNext (host .reset s) := ⟨[], rfl⟩

theorem witness_BusyChangesOnlyByAcceptanceAndCompletion_rises :
    let s := host (hostW 0x00 0xAB) State.reset
    step s = .next (after s) ∧ s.busy = false ∧ (after s).busy = true := ⟨rfl, rfl, rfl⟩

theorem witness_BusyChangesOnlyByAcceptanceAndCompletion_falls :
    let s := pend 4 0 State.reset
    let r := host .reset (inFlight 4 0 State.reset)
    step s = .next (after s) ∧ s.busy = true ∧ (after s).busy = false ∧
      step r = .next (after r) ∧ r.busy = true ∧ (after r).busy = false ∧ ResetsNext r :=
  ⟨rfl, rfl, rfl, rfl, rfl, rfl, resetsNext_host _⟩

theorem witness_DoneChangesOnlyByTheseEvents :
    let s := pend 4 0 State.reset
    let c := host (hostW 0x04 2) finished
    let a := host (hostW 0x00 4) finished
    step s = .next (after s) ∧ Completing s 4 ∧ s.done = false ∧ (after s).done = true ∧
      step c = .next (after c) ∧ c.done = true ∧ (after c).done = false ∧
      step a = .next (after a) ∧ a.done = true ∧ (after a).done = false :=
  ⟨rfl, completing_pend _ _ _, rfl, rfl, rfl, rfl, rfl, rfl, rfl, rfl⟩

theorem witness_KeyValidChangesOnlyByTheseEvents :
    let s := pend 1 0 State.reset
    let k := host (hostW 0x1C 0) (cached State.reset)
    step s = .next (after s) ∧ s.keyValid = false ∧ (after s).keyValid = true ∧
      step k = .next (after k) ∧ k.keyValid = true ∧ (after k).keyValid = false ∧ k.busy = false ∧
      WritesNext k (.key 3) 0 :=
  ⟨rfl, rfl, rfl, rfl, rfl, rfl, rfl, writesNext_host _ 0x1C 0⟩

theorem witness_ResultsChangeOnlyAtCompletion :
    let s := pend 4 0 (core0 zeros block1 zeros)
    let k := pend 1 0 State.reset
    let a := pend 11 0 State.reset
    step s = .next (after s) ∧ (after s).work ≠ s.work ∧ step k = .next (after k) ∧ (after k).rk ≠ k.rk ∧
      step a = .next (after a) ∧ (after a).rk ≠ a.rk ∧ a.keyValid = false :=
  ⟨rfl, by decide, rfl, by decide, rfl, by decide, rfl⟩

theorem witness_OperandsChangeOnlyByHostWritesWhenIdle :
    let k := host (hostW 0x10 1) State.reset
    let l := host (hostW 0x08 0) State.reset
    let d := host (hostW 0x2C 1) State.reset
    step k = .next (after k) ∧ (after k).key ≠ k.key ∧ step l = .next (after l) ∧ (after l).len ≠ l.len ∧
      step d = .next (after d) ∧ (after d).din ≠ d.din :=
  ⟨rfl, by decide, rfl, by decide, rfl, by decide⟩

theorem witness_OperandsAreStableWhileBusy :
    let s := host (hostW 0x10 1) (inFlight 2 0 State.reset)
    step s = .next (after s) ∧ s.busy = true ∧ s.turn = .host ∧ ¬ResetsNext s :=
  ⟨rfl, rfl, rfl, by rintro ⟨rest, h⟩; cases h⟩

theorem witness_ErrorsComeOnlyFromTheseWrites :
    let b := host (hostW 0x20 1) (inFlight 2 0 State.reset)
    let i := host (hostW 0x00 0xC) State.reset
    let r := host (hostW 0x00 0xBB) State.reset
    step b = .next (after b) ∧ b.err = false ∧ (after b).err = true ∧ step i = .next (after i) ∧ i.err = false ∧
      (after i).err = true ∧ step r = .next (after r) ∧ r.err = false ∧ (after r).err = true :=
  ⟨rfl, rfl, rfl, rfl, rfl, rfl, rfl, rfl, rfl⟩

theorem witness_TheFirstErrorIsKeptUntilCleared :
    let k := host (hostW 0x00 0xBB) failed
    let c := host (hostW 0x04 8) failed
    step k = .next (after k) ∧ k.err = true ∧ (after k).errCode = 1 ∧ step c = .next (after c) ∧ c.err = true ∧
      (after c).err = false := ⟨rfl, rfl, rfl, rfl, rfl, rfl⟩

theorem witness_LastOpAndReadbackFollowTheCommands_completion :
    let s := pend 4 0 State.reset
    step s = .next (after s) ∧ (after s).lastOp ≠ s.lastOp ∧ ¬(s.turn = .host ∧ ResetsNext s) :=
  ⟨rfl, by decide, by rintro ⟨h, -⟩; cases h⟩

theorem witness_LastOpAndReadbackFollowTheCommands_nop :
    let n := host (hostW 0x00 0x30) State.reset
    step n = .next (after n) ∧ (after n).ctrlRb ≠ n.ctrlRb ∧ ¬(n.turn = .host ∧ ResetsNext n) :=
  ⟨rfl, by decide, by rintro ⟨-, rest, h⟩; cases h⟩

theorem witness_IrqRisesOnlyWithItsSources :
    let s := pend 4 0 { State.reset with doneIe := true }
    let e := host (hostW 0x00 0xC) { State.reset with errIe := true }
    let i := host (hostW 0x0C 1) finished
    step s = .next (after s) ∧ s.irq = false ∧ (after s).irq = true ∧ step e = .next (after e) ∧ e.irq = false ∧
      (after e).irq = true ∧ step i = .next (after i) ∧ i.irq = false ∧ (after i).irq = true :=
  ⟨rfl, rfl, rfl, rfl, rfl, rfl, rfl, rfl, rfl⟩

theorem witness_EveryAcceptedCommandCompletes :
    let s := host .wait (inFlight 11 10 State.reset)
    s.seq = .busy 11 10 ∧ sequencerLegal s = true ∧ ∀ o ∈ s.program, o.inScope = true ∧ o ≠ .reset := by decide

theorem witness_HostReadsTheCipherAfterWait :
    let s : State := { State.reset with program := [cmd (.enc 0), .wait] ++ rdout ++ [] }
    KeyCacheCurrent s ∧ s.busy = false ∧ s.program = [cmd (.enc 0), .wait] ++ rdout ++ [] := by decide

theorem witness_HiddenScheduleIsUnobservable : SameButHiddenRk State.reset otherRk ∧ State.reset ≠ otherRk :=
  ⟨⟨rfl, by decide⟩, by decide⟩

theorem witness_BlockResultsDependOnlyOnBlockAndKey :
    let s := pend 2 0 State.reset
    let s' := pend 2 7 (cached { failed with work := w2b block1 })
    KeyCacheCurrent s ∧ KeyCacheCurrent s' ∧ s.turn = .core ∧ s'.turn = .core ∧ s.seq = .busy 2 0 ∧ s'.seq = .busy 2 7 ∧
      s.din = s'.din ∧ normalizeKey (w2b s.key) s.len = normalizeKey (w2b s'.key) s'.len ∧
      step s = .next (after s) ∧ step s' = .next (after s') :=
  ⟨by decide, by decide, rfl, rfl, rfl, rfl, rfl, rfl, rfl, rfl⟩

theorem witness_NormalisationCornerCases :
    16 ≤ (16 : BitVec 5).toNat ∧ 16 ≤ (31 : BitVec 5).toNat ∧ (15 : BitVec 5).toNat < 16 ∧ (0 : BitVec 5).toNat < 16 ∧
      (∀ r c : Fin 4, r.val + 4 * c.val = (15 : BitVec 5).toNat →
        Block.at' (Four.fill (Four.fill 0x01)) r c = 0x01) ∧
      (∀ r c : Fin 4, r.val + 4 * c.val < (1 : BitVec 5).toNat →
        Block.zero.at' r c = Block.at' ⟨⟨0, 1, 0, 0⟩, Four.fill 0, Four.fill 0, Four.fill 0⟩ r c) ∧
      State.reset.busy = false := by decide

theorem witness_EncryptProgramReadsTheCiphertext :
    let s : State := { State.reset with program := encryptProgram [0x41] [0x30] }
    s.busy = false ∧ s.program = encryptProgram [0x41] [0x30] ∧ s.trace = [] := ⟨rfl, rfl, rfl⟩

theorem witness_DecryptProgramReadsThePlaintext :
    let C : List Byte := List.replicate 16 0x00
    let s : State := { State.reset with program := decryptProgram C [] }
    lengthOk C = true ∧ s.busy = false ∧ s.program = decryptProgram C [] ∧ s.trace = [] := ⟨rfl, rfl, rfl, rfl⟩

theorem witness_CodecFailuresAndLossyText_text :
    utf8Head [0x41, 0xFF] = some ('A', [0xFF]) ∧ utf8Head [0xFF, 0x41] = none ∧ utf8Head [0xE2, 0x82, 0x41] = none := by
  decide

theorem witness_CodecFailuresAndLossyText :
    ([] : List Byte).length = 0 ∧ (List.replicate 15 (0x00 : Byte)).length % 16 ≠ 0 ∧
      lengthOk (List.replicate 16 (0x00 : Byte)) = true ∧ unpad [0x00] = .fail .badPadding ∧
      unpad [0x11] = .fail .badPadding ∧ unpad [0x01] = .ok [] := by decide

end Sys2Proof.Tests
end

section
/-! ### Byte packing (00_scope.md R12)

The library's append and extract lemmas give the rules of `pack` and `unpack` on one word; those of `b2w` and `w2b` follow
element by element. -/

namespace Sys2Proof.Machine

theorem pack_eq_shifts (w : Quad) :
    pack w = (w.x0.setWidth 32 <<< 24) ||| (w.x1.setWidth 32 <<< 16) ||| (w.x2.setWidth 32 <<< 8) |||
      w.x3.setWidth 32 := by
  rw [← BitVec.setWidth_eq (pack w)]
  exact BitVec.setWidth_append_append_append_eq_shiftLeft_setWidth_or

/-- R12's inverse on bytes: with the word's lower bytes dropped, each byte stands at an end of what remains. -/
@[simp] theorem unpack_pack (w : Quad) : unpack (pack w) = w := by
  have drop3 (i : Nat) (hi : 8 ≤ i) :
      (pack w).extractLsb' i 8 = (w.x0 ++ w.x1 ++ w.x2).extractLsb' (i - 8) 8 := BitVec.extractLsb'_append_eq_of_le hi
  have drop2 (i : Nat) (hi : 8 ≤ i) :
      (w.x0 ++ w.x1 ++ w.x2).extractLsb' i 8 = (w.x0 ++ w.x1).extractLsb' (i - 8) 8 :=
    BitVec.extractLsb'_append_eq_of_le hi
  apply Four.ext
  case x0 => exact (drop3 24 (by decide)).trans ((drop2 16 (by decide)).trans BitVec.extractLsb'_append_eq_left)
  case x1 => exact (drop3 16 (by decide)).trans ((drop2 8 (by decide)).trans BitVec.extractLsb'_append_eq_right)
  case x2 => exact (drop3 8 (by decide)).trans BitVec.extractLsb'_append_eq_right
  case x3 => exact BitVec.extractLsb'_append_eq_right

/-- The four slices of `unpack` are adjacent, so they join to the whole word. -/
@[simp] theorem pack_unpack (x : Word) : pack (unpack x) = x := by
  have hi : x.extractLsb' 24 8 ++ x.extractLsb' 16 8 = x.extractLsb' 16 16 :=
    BitVec.extractLsb'_append_extractLsb'_eq_extractLsb' rfl
  have mid : x.extractLsb' 16 16 ++ x.extractLsb' 8 8 = x.extractLsb' 8 24 :=
    BitVec.extractLsb'_append_extractLsb'_eq_extractLsb' rfl
  have lo : x.extractLsb' 8 24 ++ x.extractLsb' 0 8 = x := BitVec.extractLsb'_append_extractLsb' (w := 24)
  rw [pack, unpack, hi, mid, lo]

@[simp] theorem b2w_get (b : Block) (k : Fin 4) : (b2w b).get k = pack (b.get k) := Four.get_map pack b k

@[simp] theorem w2b_get (d : Four Word) (k : Fin 4) : (w2b d).get k = unpack (d.get k) := Four.get_map unpack d k

@[simp] theorem w2b_b2w (b : Block) : w2b (b2w b) = b := Four.ext_get fun k => by simp

@[simp] theorem b2w_w2b (d : Four Word) : b2w (w2b d) = d := Four.ext_get fun k => by simp

/-- Settles O54, from the rules of `pack` and `unpack` on one word; column `k` of a block holds its bytes 4k..4k+3. -/
theorem packingIsBigEndianAndInvertible : Obligations.PackingIsBigEndianAndInvertible :=
  ⟨pack_eq_shifts, unpack_pack, pack_unpack, b2w_get, w2b_b2w, b2w_w2b⟩

end Sys2Proof.Machine
end

section
/-! ### Register reads and writes (10_state.md)

STATUS, INTEN and the narrow registers bit by bit, and what an operand write does while idle. -/

namespace Sys2Proof.Machine

@[simp] theorem getLsbD_bit (b : Bool) (i : Nat) : (bit b).getLsbD i = (decide (i = 0) && b) := by
  cases b <;> cases i <;> simp [bit]

@[simp] theorem getElem_bit (b : Bool) (i : Nat) (hi : i < 32) : (bit b)[i] = (decide (i = 0) && b) :=
  getLsbD_bit b i

/-- Settles O15: no two fields of R22 share a bit, so at each bit one term of the disjunction remains. -/
theorem statusReadShowsItsFields : Obligations.StatusReadShowsItsFields := by
  intro s
  simp only [State.readReg, State.statusWord]
  refine ⟨by simp, by simp, by simp, by simp, ?errCode, ?lastOp, by simp [State.irq], ?reserved⟩
  all_goals
    ext i hi
    interval_cases i <;> simp

/-- Settles O17: `readReg` tests exactly R36's gate. -/
theorem rkdataIsGatedByKeyValid : Obligations.RkdataIsGatedByKeyValid :=
  ⟨fun _ h hk => dif_pos ⟨hk, h⟩, fun _ h => dif_neg h, fun _ _ => rfl⟩

theorem regAt_eq_reserved {slot : BitVec 6} (h : 19 ≤ slot.toNat) : regAt slot = .reserved := by
  revert slot
  decide

/-- The offsets from 0x4C on lie in the word slots from 19 on. -/
theorem regOf_eq_reserved {off : BitVec 8} (h : 0x4C ≤ off.toNat) : regOf off = .reserved := by
  refine regAt_eq_reserved ?_
  rw [BitVec.extractLsb'_toNat, Nat.shiftRight_eq_div_pow]
  omega

/-- Settles O18: the reserved offsets are the reserved register, whose read and write are constant like ID's. -/
theorem readOnlyAndReservedWritesAreIgnored : Obligations.ReadOnlyAndReservedWritesAreIgnored := by
  intro s v
  refine ⟨rfl, fun off h => ?read, rfl, fun _ => rfl, fun off h => ?write⟩
  case read => rw [State.readOff, regOf_eq_reserved h]; rfl
  case write => rw [State.writeOff, regOf_eq_reserved h]; rfl

/-! ### Operand writes while idle -/

section
variable {s : State} (v : Word) (hb : s.busy = false)
include hb

theorem writeReg_keylen_idle :
    s.writeReg .keylen v = .next { s with len := v.extractLsb' 0 5, keyValid := false } := by
  simp [State.writeReg, State.writeKeylen, hb]

theorem writeReg_key_idle (k : Fin 4) :
    s.writeReg (.key k) v = .next { s with key := s.key.set k v, keyValid := false } := by
  simp [State.writeReg, State.writeKey, hb]

theorem writeReg_din_idle (k : Fin 4) : s.writeReg (.din k) v = .next { s with din := s.din.set k v } := by
  simp [State.writeReg, State.writeDin, hb]

end

theorem getElem_and_lowMask (v : Word) (n : Nat) {i : Nat} (hi : i < 32) :
    (v &&& BitVec.ofNat 32 (2 ^ n - 1))[i] = (decide (i < n) && v[i]) := by
  rw [← BitVec.getLsbD_eq_getElem, BitVec.getLsbD_and, BitVec.getLsbD_ofNat, Nat.testBit_two_pow_sub_one]
  simp [hi, Bool.and_comm]

/-- A field of `n` low bits, read back zero-extended. -/
theorem setWidth_extractLsb'_eq_and_lowMask (v : Word) (n : Nat) :
    (v.extractLsb' 0 n).setWidth 32 = v &&& BitVec.ofNat 32 (2 ^ n - 1) := by
  ext i hi
  rw [getElem_and_lowMask]
  simp [hi]

theorem readReg_inten_writeInten (s : State) (v : Word) : (s.writeInten v).readReg .inten = v &&& 0x3 := by
  change _ = v &&& BitVec.ofNat 32 (2 ^ 2 - 1)
  ext i hi
  rw [getElem_and_lowMask]
  rcases i with _ | _ | i <;> simp [State.readReg]

/-- Settles O19: a write while idle replaces one element of the bank, or LEN, so the others read as before. -/
theorem operandWritesWhenIdleAreReadBack : Obligations.OperandWritesWhenIdleAreReadBack := by
  intro s v hb
  refine ⟨fun k => ⟨_, writeReg_key_idle v hb k, ?_, fun j hj => ?_, rfl, rfl⟩,
    ⟨_, writeReg_keylen_idle v hb, setWidth_extractLsb'_eq_and_lowMask v 5, rfl, rfl⟩,
    fun k => ⟨_, writeReg_din_idle v hb k, ?_, fun j hj => ?_, rfl⟩⟩
  all_goals simp_all [State.readReg]

/-- Settles O21: none of the three writes asks whether the core is busy. -/
theorem statusIntenAndRkidxWrites : Obligations.StatusIntenAndRkidxWrites := fun s v =>
  ⟨congrArg _ (writeStatus_eq s v), ⟨_, rfl, readReg_inten_writeInten s v, rfl⟩,
    ⟨_, rfl, setWidth_extractLsb'_eq_and_lowMask v 6, rfl⟩⟩

end Sys2Proof.Machine
end

section
/-! ### The constant tables (10_state.md R39, R40, R41)

The GF(2^8) inverse is read off SBOX by undoing R39's affine map. It is its own inverse, so SBOX is injective, and
INV_SBOX, which searches SBOX, is its inverse on both sides. -/

namespace Sys2Proof.Machine

/-- The inverse of R39's affine map: bit `i` is `y[i+2] ^ y[i+5] ^ y[i+7]`, indices modulo 8, XOR bit `i` of 0x05. -/
def affineInverse (y : Byte) : Byte := y.rotateRight 2 ^^^ y.rotateRight 5 ^^^ y.rotateRight 7 ^^^ 0x05

theorem affine_affineInverse (y : Byte) (i : Fin 8) : y.getLsbD i.val =
    ((affineInverse y).getLsbD i.val ^^ (affineInverse y).getLsbD ((i.val + 4) % 8) ^^
      (affineInverse y).getLsbD ((i.val + 5) % 8) ^^ (affineInverse y).getLsbD ((i.val + 6) % 8) ^^
      (affineInverse y).getLsbD ((i.val + 7) % 8) ^^ (0x63 : Byte).getLsbD i.val) := by
  revert y i
  decide +kernel

theorem gmul_affineInverse_sbox (x : Byte) (hx : x ≠ 0x00) : gmul x (affineInverse (sbox x)) = 0x01 := by
  revert x
  decide +kernel

theorem affineInverse_sbox_involutive : Function.Involutive fun x => affineInverse (sbox x) := by
  have key : ∀ x : Byte, affineInverse (sbox (affineInverse (sbox x))) = x := by decide +kernel
  exact key

theorem sbox_injective : Function.Injective sbox := fun _ _ h =>
  affineInverse_sbox_involutive.injective (congrArg affineInverse h)

theorem mem_allBytes (x : Byte) : x ∈ allBytes :=
  List.mem_map.2 ⟨x.toNat, List.mem_range.2 x.isLt, by simp⟩

/-- The search of `invSbox` succeeds at `x`, and by injectivity nowhere else. -/
@[simp] theorem invSbox_sbox (x : Byte) : invSbox (sbox x) = x := by
  have found : (allBytes.find? fun y => sbox y == sbox x).isSome := List.find?_isSome.2 ⟨x, mem_allBytes x, by simp⟩
  obtain ⟨y, hy⟩ := Option.isSome_iff_exists.1 found
  rw [invSbox, hy, Option.getD_some]
  exact sbox_injective (by simpa using List.find?_some hy)

@[simp] theorem sbox_invSbox (y : Byte) : sbox (invSbox y) = y := by
  obtain ⟨x, rfl⟩ := Finite.injective_iff_surjective.1 sbox_injective y
  rw [invSbox_sbox]

/-- Settles O51: the inverse is `affineInverse` of SBOX. -/
theorem tablesFollowTheirConstruction : Obligations.TablesFollowTheirConstruction :=
  ⟨⟨fun x => affineInverse (sbox x), by decide, gmul_affineInverse_sbox, fun x => affine_affineInverse (sbox x)⟩,
    fun x => ⟨invSbox_sbox x, sbox_invSbox x⟩, rfl, by decide⟩

end Sys2Proof.Machine
end

section
/-! ### What a step can change, register by register (10_state.md R23 to R42)

`step_change` says once which events can change a register: a completion, a register write or the reset event.
`WriteFrame` says which writes touch which register, and the lemmas about `effect` which completions. -/

namespace Sys2Proof.Machine

/-! ### What a register write can change -/

/-- A CTRL write while idle is an acceptance, NOP's, or a rejection. -/
theorem written_ctrl_idle_cases (v : Word) {s : State} (hb : s.busy = false) :
    (commandPair (opField v) (roundField v) = true ∧ written .ctrl v s = s.accept (opField v) (roundField v)) ∨
    (opField v = 0 ∧ written .ctrl v s = s.acceptNop (roundField v)) ∨ ∃ e, written .ctrl v s = s.raise e := by
  have h := idle_written .ctrl v s hb
  simp only [true_and, reduceCtorEq, false_and, exists_false, or_false, ne_eq, not_true, and_false] at h
  rcases h with h | h | ⟨-, h⟩ | ⟨-, -, h⟩
  · exact .inl h
  · exact .inr (.inl h)
  · exact .inr (.inr ⟨_, h⟩)
  · exact .inr (.inr ⟨_, h⟩)

/-- What can differ between `s` and the state `u` a host write of `v` to `r` makes of it: an operand and KEY_VALID only
by the writes of 10_state.md R25, R29, R31 and R32 while idle, the sequencer and CTRL_RB only by an accepted CTRL write
(42_block_cipher.md R180), DONE only by that or a STATUS write (R24), and no result at all. -/
structure WriteFrame (r : Reg) (v : Word) (s u : State) : Prop where
  key : u.key ≠ s.key → s.busy = false ∧ ∃ k, r = .key k
  len : u.len ≠ s.len → s.busy = false ∧ r = .keylen
  din : u.din ≠ s.din → s.busy = false ∧ ∃ k, r = .din k
  keyValid : u.keyValid ≠ s.keyValid → u.keyValid = false ∧ s.busy = false ∧ (r = .keylen ∨ ∃ k, r = .key k)
  seq : u.seq ≠ s.seq → s.busy = false ∧ r = .ctrl ∧ commandPair (opField v) (roundField v) = true ∧
    u.seq = .busy (opField v) (roundField v)
  ctrlRb : u.ctrlRb ≠ s.ctrlRb → s.busy = false ∧ r = .ctrl ∧
    (opField v = 0x0 ∨ commandPair (opField v) (roundField v) = true) ∧ u.ctrlRb = roundField v ++ opField v
  done : u.done ≠ s.done → u.done = false ∧ ((r = .status ∧ v.getLsbD 1 = true) ∨
    (s.busy = false ∧ r = .ctrl ∧ commandPair (opField v) (roundField v) = true))
  work : u.work = s.work
  dout : u.dout = s.dout
  rk : u.rk = s.rk
  lastOp : u.lastOp = s.lastOp

theorem written_frame (r : Reg) (v : Word) (s : State) : WriteFrame r v s (written r v s) := by
  cases hb : s.busy
  · cases r
    case ctrl =>
      rcases written_ctrl_idle_cases v hb with ⟨hc, he⟩ | ⟨ho, he⟩ | ⟨e, he⟩
      · constructor <;> simp [he, hb, hc]
      · constructor <;> simp [he, hb, ho]
      · constructor <;> simp [he]
    case status => constructor <;> simp +contextual [written]
    all_goals constructor <;> simp [written, State.writeKeylen, State.writeKey, State.writeDin, hb]
  · rcases busy_written r v s hb with ⟨-, he⟩ | ⟨rfl, he⟩ | ⟨rfl, he⟩ | ⟨rfl, he⟩ | ⟨he, -⟩
    all_goals constructor <;> simp +contextual [he]

/-- RK and the host's remaining program changed, by `K` and `P`: the two fields no register write reads or touches. -/
def State.mapUnwritten (K : Schedule → Schedule) (P : List HostOp → List HostOp) (s : State) : State :=
  { s with rk := K s.rk, program := P s.program }

section
variable (K : Schedule → Schedule) (P : List HostOp → List HostOp) (s : State)

theorem raise_mapUnwritten (e : ErrCode) : (s.mapUnwritten K P).raise e = (s.raise e).mapUnwritten K P := by
  unfold State.raise
  cases he : s.err <;> simp [State.mapUnwritten, he]

theorem writeEffect_mapUnwritten (i : Instr) :
    writeEffect i (s.mapUnwritten K P) = (writeEffect i s).mapUnwritten K P := by
  cases i
  case ark rnd =>
    simp only [writeEffect]
    split
    · rfl
    · exact raise_mapUnwritten K P s _
  case illegal | arkBadRound11 | arkBadRound12 | arkBadRound13 | arkBadRound14 | arkBadRound15 =>
    exact raise_mapUnwritten K P s _
  all_goals rfl

theorem written_mapUnwritten (r : Reg) (v : Word) :
    written r v (s.mapUnwritten K P) = (written r v s).mapUnwritten K P := by
  have busy : (s.mapUnwritten K P).busy = s.busy := rfl
  cases r
  case ctrl | keylen | key | din =>
    simp only [written, State.writeKeylen, State.writeKey, State.writeDin, busy, raise_mapUnwritten,
      writeEffect_mapUnwritten]
    cases s.busy <;> rfl
  case status => simp [written, writeStatus_eq, State.mapUnwritten]
  all_goals rfl

end

theorem written_withProgram (r : Reg) (v : Word) (p : List HostOp) (s : State) :
    written r v (s.withProgram p) = (written r v s).withProgram p :=
  written_mapUnwritten id (fun _ => p) s r v

/-! ### What a completion leaves alone -/

section
variable (i : Instr) (s : State)

theorem effect_eq : effect i s = { s with work := (effect i s).work, dout := (effect i s).dout, rk := (effect i s).rk,
                                          keyValid := (effect i s).keyValid } := effect_same i s

@[simp] theorem effect_key : (effect i s).key = s.key := by rw [effect_eq]
@[simp] theorem effect_len : (effect i s).len = s.len := by rw [effect_eq]
@[simp] theorem effect_din : (effect i s).din = s.din := by rw [effect_eq]
@[simp] theorem effect_ctrlRb : (effect i s).ctrlRb = s.ctrlRb := by rw [effect_eq]

@[simp] theorem busy_finish (op : BitVec 4) : (s.finish op).busy = false := rfl
@[simp] theorem busy_resetEvent : s.resetEvent.busy = false := rfl

end

/-! ### What a step can change -/

/-- `f` reads the core's registers alone, and neither the host's lists nor the countdown. -/
def ReadsCore {α : Type} (f : State → α) : Prop :=
  ∀ s p tr w, f { s with program := p, trace := tr, wait := w } = f s

/-- What can change a register: a completion, a register write or the reset event. -/
theorem step_change {α : Type} (f : State → α) {s t : State} (h : step s = .next t) (hne : f t ≠ f s)
    (hf : ReadsCore f := by exact fun _ _ _ _ => rfl) :
    (∃ op rnd, Completing s op ∧ t = (effect (instrOfFields op rnd) s).finish op) ∨
    (s.turn = .host ∧ ∃ r v, WritesNext s r v ∧ f t = f (written r v s)) ∨
    ((s.turn = .host ∧ ResetsNext s) ∧ ∃ p, t = (s.withProgram p).resetEvent) := by
  rcases step_fields h with ⟨op, rnd, -, hc, -, -, -, ht⟩ | ⟨-, p, tr, w, rfl⟩ | ⟨r, v, p, w, hh, hn, ht⟩ |
    ⟨hh, hr, ht⟩
  · exact .inl ⟨op, rnd, hc, ht⟩
  · exact absurd (hf s p tr w) hne
  · refine .inr (.inl ⟨hh, r, v, hn, ?_⟩)
    rw [written_withProgram] at ht
    rcases ht with ⟨-, rfl⟩ | ⟨-, rfl⟩
    · exact hf (written r v s) p (written r v s).trace w
    · exact hf (written r v s) p (written r v s).trace (written r v s).wait
  · exact .inr (.inr ⟨⟨hh, hr⟩, ht⟩)

/-- A completing step is the completion of the pending command. -/
theorem step_completing {s t : State} {op : BitVec 4} (h : step s = .next t) (hc : Completing s op) :
    ∃ rnd, t = (effect (instrOfFields op rnd) s).finish op := by
  obtain ⟨ht, rnd, hq⟩ := hc
  rcases step_fields h with ⟨op', rnd', -, -, -, hq', -, rfl⟩ | ⟨hh, -⟩ | ⟨-, -, -, -, hh, -⟩ | ⟨hh, -⟩
  · cases hq.symm.trans hq'
    exact ⟨rnd, rfl⟩
  all_goals simp [ht] at hh

/-- What no completion changes is changed by the host alone, by a register write or the reset event. -/
theorem step_change_by_host {α : Type} (f : State → α) {s t : State} (h : step s = .next t) (hne : f t ≠ f s)
    (hc : ∀ i op s, f ((effect i s).finish op) = f s) (hf : ReadsCore f := by exact fun _ _ _ _ => rfl) :
    s.turn = .host ∧ (ResetsNext s ∨ ∃ r v, WritesNext s r v ∧ f (written r v s) ≠ f s) := by
  rcases step_change f h hne hf with ⟨op, rnd, -, rfl⟩ | ⟨hh, r, v, hn, he⟩ | ⟨⟨hh, hr⟩, -⟩
  · exact absurd (hc _ op s) hne
  · exact ⟨hh, .inr ⟨r, v, hn, he ▸ hne⟩⟩
  · exact ⟨hh, .inl hr⟩

/-- A step at an idle core whose next operation writes a register ends in that write's state. -/
theorem step_written_of_idle {s t : State} {r : Reg} {v : Word} (hb : s.busy = false) (hn : WritesNext s r v)
    (h : step s = .next t) : ∃ p, t = (written r v s).withProgram p := by
  obtain ⟨p, hp⟩ := step_write (turn_host_of_not_busy hb) hn
  rw [h, hb, written_withProgram] at hp
  injection hp with hp
  exact ⟨p, by simpa using hp⟩

/-! ### The registers one by one -/

/-- Settles O33: BUSY is the sequencer's phase, which only these events touch. -/
theorem busyChangesOnlyByAcceptanceAndCompletion : Obligations.BusyChangesOnlyByAcceptanceAndCompletion := by
  intro s t h
  have seq_ne (hb : t.busy ≠ s.busy) : t.seq ≠ s.seq := fun he => hb (busy_congr he)
  refine ⟨fun hs ht => ?rises, fun hs ht => ?falls⟩
  case rises =>
    have hne := seq_ne (by simp [hs, ht])
    rcases step_change State.seq h hne with ⟨op, rnd, -, rfl⟩ | ⟨-, r, v, hn, he⟩ | ⟨-, p, rfl⟩
    · simp at ht
    · obtain ⟨-, rfl, hp, hq⟩ := (written_frame r v s).seq (he ▸ hne)
      exact ⟨v, hn, hp, he.trans hq⟩
    · simp at ht
  case falls =>
    have hne := seq_ne (by simp [hs, ht])
    rcases step_change State.seq h hne with ⟨op, rnd, hc, -⟩ | ⟨-, r, v, -, he⟩ | ⟨hr, -⟩
    · exact .inl ⟨op, hc⟩
    · obtain ⟨hb, -⟩ := (written_frame r v s).seq (he ▸ hne)
      simp [hs] at hb
    · exact .inr hr

/-- Settles O34: DONE is set by every completion, and what else touches it clears it. -/
theorem doneChangesOnlyByTheseEvents : Obligations.DoneChangesOnlyByTheseEvents := by
  intro s t h
  have change (hne : t.done ≠ s.done) := step_change State.done h hne
  refine ⟨fun op hc => ?completion, fun hs ht => ?rises, fun hs ht => ?falls⟩
  case completion =>
    obtain ⟨rnd, rfl⟩ := step_completing h hc
    rfl
  case rises =>
    rcases change (by simp [hs, ht]) with ⟨op, rnd, hc, -⟩ | ⟨-, r, v, -, he⟩ | ⟨-, p, rfl⟩
    · exact ⟨op, hc⟩
    · obtain ⟨hf, -⟩ := (written_frame r v s).done (by simp [← he, hs, ht])
      simp [← he, ht] at hf
    · simp at ht
  case falls =>
    rcases change (by simp [hs, ht]) with ⟨op, rnd, -, rfl⟩ | ⟨hh, r, v, hn, he⟩ | ⟨⟨hh, hr⟩, -⟩
    · simp at ht
    · obtain ⟨-, ⟨rfl, hv⟩ | ⟨hb, rfl, hp⟩⟩ := (written_frame r v s).done (by simp [← he, hs, ht])
      · exact ⟨hh, .inr (.inl ⟨v, hn, hv⟩)⟩
      · exact ⟨hh, .inr (.inr ⟨hb, v, hn, hp⟩)⟩
    · exact ⟨hh, .inl hr⟩

/-- Settles O35: only an expansion sets KEY_VALID, and the writes that touch it clear it. -/
theorem keyValidChangesOnlyByTheseEvents : Obligations.KeyValidChangesOnlyByTheseEvents := by
  intro s t h
  have change (hne : t.keyValid ≠ s.keyValid) := step_change State.keyValid h hne
  refine ⟨fun hs ht => ?rises, fun hs ht => ?falls, fun hb hw => ?cleared⟩
  case rises =>
    rcases change (by simp [hs, ht]) with ⟨op, rnd, hc, rfl⟩ | ⟨-, r, v, -, he⟩ | ⟨-, p, rfl⟩
    · refine ⟨op, hc, ?_⟩
      rcases effect_keeps_schedule op rnd s with ⟨hk, -⟩ | hop | ⟨-, hop⟩
      · simp [hk, hs] at ht
      · exact .inl hop
      · exact .inr hop
    · obtain ⟨hf, -⟩ := (written_frame r v s).keyValid (by simp [← he, hs, ht])
      simp [← he, ht] at hf
    · simp at ht
  case falls =>
    rcases change (by simp [hs, ht]) with ⟨op, rnd, -, rfl⟩ | ⟨hh, r, v, hn, he⟩ | ⟨⟨hh, hr⟩, -⟩
    · simp [effect_keeps_keyValid op rnd s hs] at ht
    · obtain ⟨-, hb, rfl | ⟨k, rfl⟩⟩ := (written_frame r v s).keyValid (by simp [← he, hs, ht])
      · exact ⟨hh, .inr ⟨hb, v, .inl hn⟩⟩
      · exact ⟨hh, .inr ⟨hb, v, .inr ⟨k, hn⟩⟩⟩
    · exact ⟨hh, .inl hr⟩
  case cleared =>
    obtain ⟨v, hn | ⟨k, hn⟩⟩ := hw
    · obtain ⟨p, rfl⟩ := step_written_of_idle hb hn h
      simp [written, State.writeKeylen, hb]
    · obtain ⟨p, rfl⟩ := step_written_of_idle hb hn h
      simp [written, State.writeKey, hb]

/-- Settles O36: no register write touches a result, and which completions do depends on the opcode. -/
theorem resultsChangeOnlyAtCompletion : Obligations.ResultsChangeOnlyAtCompletion := by
  intro s t h
  refine ⟨fun hwd => ?workOrDout, fun hne => ?rk⟩
  case workOrDout =>
    have hne : (t.work, t.dout) ≠ (s.work, s.dout) := by simpa [imp_iff_not_or] using hwd
    rcases step_change (fun s => (s.work, s.dout)) h hne with
      ⟨op, rnd, hc, rfl⟩ | ⟨-, r, v, -, he⟩ | ⟨hr, -⟩
    · refine .inl ⟨op, hc, ?_⟩
      rcases effect_keeps_results op rnd s with ⟨hw, hd⟩ | hop
      · simp [hw, hd] at hne
      · exact hop
    · rw [(written_frame r v s).work, (written_frame r v s).dout] at he
      exact absurd he hne
    · exact .inr hr
  case rk =>
    rcases step_change State.rk h hne with ⟨op, rnd, hc, rfl⟩ | ⟨-, r, v, -, he⟩ | ⟨hr, -⟩
    · rcases effect_keeps_schedule op rnd s with ⟨-, hk⟩ | hop
      · exact absurd hk hne
      · exact .inl ⟨op, hc, hop⟩
    · exact absurd (he.trans (written_frame r v s).rk) hne
    · exact .inr hr

/-- Settles O37: no completion touches an operand, so the change is the host's. -/
theorem operandsChangeOnlyByHostWritesWhenIdle : Obligations.OperandsChangeOnlyByHostWritesWhenIdle := by
  intro s t h
  refine ⟨fun hne => ?key, fun hne => ?len, fun hne => ?din⟩
  case key =>
    refine (step_change_by_host State.key h hne fun i _ s => effect_key i s).imp_right (.imp_right ?_)
    rintro ⟨r, v, hn, hw⟩
    obtain ⟨hb, k, rfl⟩ := (written_frame r v s).key hw
    exact ⟨hb, k, v, hn⟩
  case len =>
    refine (step_change_by_host State.len h hne fun i _ s => effect_len i s).imp_right (.imp_right ?_)
    rintro ⟨r, v, hn, hw⟩
    obtain ⟨hb, rfl⟩ := (written_frame r v s).len hw
    exact ⟨hb, v, hn⟩
  case din =>
    refine (step_change_by_host State.din h hne fun i _ s => effect_din i s).imp_right (.imp_right ?_)
    rintro ⟨r, v, hn, hw⟩
    obtain ⟨hb, k, rfl⟩ := (written_frame r v s).din hw
    exact ⟨hb, k, v, hn⟩

/-- CTRL_RB's two fields are `v[7:0]` (10_state.md R21). -/
theorem roundField_append_opField (v : Word) : roundField v ++ opField v = v.extractLsb' 0 8 :=
  BitVec.extractLsb'_append_extractLsb'_eq_extractLsb' rfl

/-- Settles O41: no register write touches LAST_OP and no completion CTRL_RB. -/
theorem lastOpAndReadbackFollowTheCommands : Obligations.LastOpAndReadbackFollowTheCommands := by
  intro s t h hnr
  refine ⟨fun hne => ?lastOp, fun hne => ?ctrlRb⟩
  case lastOp =>
    rcases step_change State.lastOp h hne with ⟨op, rnd, hc, rfl⟩ | ⟨-, r, v, -, he⟩ | ⟨hr, -⟩
    · exact hc
    · exact absurd (he.trans (written_frame r v s).lastOp) hne
    · exact absurd hr hnr
  case ctrlRb =>
    rcases step_change State.ctrlRb h hne with ⟨op, rnd, -, rfl⟩ | ⟨-, r, v, hn, he⟩ | ⟨hr, -⟩
    · simp at hne
    · obtain ⟨hb, rfl, hc, hv⟩ := (written_frame r v s).ctrlRb (he ▸ hne)
      exact ⟨hb, v, hn, hc, he.trans (hv.trans (roundField_append_opField v))⟩
    · exact absurd hr hnr

end Sys2Proof.Machine
end

section
/-! ### Hidden RK (10_state.md R42, U3)

While KEY_VALID = 0 a read shows nothing of RK, an expansion overwrites it, and every other event carries it along: two
states that differ only there step alike. -/

namespace Sys2Proof.Machine

/-- RK replaced by `k`. -/
def State.withRk (s : State) (k : Schedule) : State := s.mapUnwritten (fun _ => k) id

theorem sameButHiddenRk_refl (s : State) : SameButHiddenRk s s := ⟨rfl, fun _ => rfl⟩

theorem outcomeSameButHiddenRk_refl (o : Result) : OutcomeSameButHiddenRk o o := by
  cases o
  case next s => exact sameButHiddenRk_refl s
  all_goals rfl

theorem outcomeSameButHiddenRk_onWindow (size : AccessSize) (a : Address) {f g : BitVec 8 → Result}
    (h : ∀ off, OutcomeSameButHiddenRk (f off) (g off)) :
    OutcomeSameButHiddenRk (onWindow size a f) (onWindow size a g) := by
  cases size
  case word =>
    cases ha : windowOffset a
    case none => simp [onWindow, ha, OutcomeSameButHiddenRk]
    case some off => simpa [onWindow, ha] using h off
  all_goals rfl

theorem outcomeSameButHiddenRk_onNext {o o' : Result} {f : State → State} (ho : OutcomeSameButHiddenRk o o')
    (hf : ∀ s t, SameButHiddenRk s t → SameButHiddenRk (f s) (f t)) :
    OutcomeSameButHiddenRk (onNext o f) (onNext o' f) := by
  cases o <;> cases o'
  case next.next s t => exact hf s t ho
  all_goals exact ho

/-- Two states related are equal, or KEY_VALID = 0 and only RK differs. -/
theorem sameButHiddenRk_cases {s t : State} (h : SameButHiddenRk s t) :
    t = s ∨ (s.keyValid = false ∧ ∃ k, t = s.withRk k) := by
  obtain ⟨he, hk⟩ := h
  cases hv : s.keyValid
  · exact .inr ⟨rfl, t.rk, he.symm⟩
  · left
    rw [← he, ← hk hv]

theorem sameButHiddenRk_withRk {s : State} (k : Schedule) (hv : s.keyValid = false) : SameButHiddenRk s (s.withRk k) :=
  ⟨rfl, by simp [hv]⟩

section
variable {s : State} (k : Schedule) (hv : s.keyValid = false)
include hv

theorem readReg_withRk (r : Reg) : (s.withRk k).readReg r = s.readReg r := by
  cases r
  case rkdata =>
    have hidden (k : Schedule) : (s.withRk k).readReg .rkdata = 0x00000000 :=
      dif_neg (by simp [State.withRk, State.mapUnwritten, hv])
    exact (hidden k).trans (hidden s.rk).symm
  all_goals rfl

/-- An expansion overwrites RK, and the other effects neither read nor touch it. -/
theorem effect_withRk (i : Instr) :
    effect i (s.withRk k) = effect i s ∨
      (effect i (s.withRk k) = (effect i s).withRk k ∧ (effect i s).keyValid = false) := by
  have expands : (s.withRk k).ensureKey = s.ensureKey := by
    have hv' : (s.withRk k).keyValid = false := hv
    rw [State.ensureKey, State.ensureKey, hv, hv']
    rfl
  cases i
  case keyexp => exact .inl rfl
  case enc | dec => simp [effect, encEffect, decEffect, expands]
  case ark rnd =>
    by_cases hr : rnd.toNat ≤ 10
    · simp [effect, arkEffect, expands, hr]
    · simp [effect, hr, hv]
  all_goals exact .inr ⟨rfl, hv⟩

theorem coreTurn_withRk (ht : s.turn = .core) : OutcomeSameButHiddenRk (coreTurn s) (coreTurn (s.withRk k)) := by
  obtain ⟨-, op, rnd, hq⟩ := turn_core_iff.1 ht
  have ht' : (s.withRk k).turn = .core := ht
  have hq' : (s.withRk k).seq = .busy op rnd := hq
  simp only [coreTurn, hq, hq']
  cases hc : completes (instrOfFields op rnd)
  · rw [exec_core_fault ht hc, exec_core_fault ht' hc]
    rfl
  · rw [exec_core ht hc, exec_core ht' hc]
    rcases effect_withRk k hv (instrOfFields op rnd) with he | ⟨he, hf⟩
    · rw [he]
      exact sameButHiddenRk_refl _
    · rw [he]
      exact sameButHiddenRk_withRk k hf

theorem written_keyValid_of_false (r : Reg) (v : Word) : (written r v s).keyValid = false := by
  by_cases hw : (written r v s).keyValid = s.keyValid
  · exact hw.trans hv
  · exact ((written_frame r v s).keyValid hw).1

/-- A host read observes nothing of a hidden RK. -/
theorem hostRead_withRk (off : BitVec 8) : (s.withRk k).hostRead off = (s.hostRead off).withRk k := by
  have hr : (s.withRk k).readOff off = s.readOff off := readReg_withRk k hv _
  rw [State.hostRead, hr]
  rfl

theorem writeOff_withRk (off : BitVec 8) (v : Word) (ht : s.turn = .host) :
    OutcomeSameButHiddenRk (s.writeOff off v) ((s.withRk k).writeOff off v) := by
  have ht' : (s.withRk k).turn = .host := ht
  rw [State.writeOff, State.writeOff, writeReg_eq_written _ _ ht, writeReg_eq_written _ _ ht', State.withRk,
    written_mapUnwritten]
  exact sameButHiddenRk_withRk k (written_keyValid_of_false hv _ _)

theorem hostOp_withRk (op : HostOp) (rest : List HostOp) (ht : s.turn = .host) :
    OutcomeSameButHiddenRk (hostOp op rest s) (hostOp op rest (s.withRk k)) := by
  have read (p : List HostOp) (off : BitVec 8) :
      SameButHiddenRk ((s.withProgram p).hostRead off) (((s.withRk k).withProgram p).hostRead off) := by
    have hr := hostRead_withRk (s := s.withProgram p) k hv off
    exact hr ▸ sameButHiddenRk_withRk k hv
  cases op with
  | read size a => exact outcomeSameButHiddenRk_onWindow size a fun off => read rest off
  | write size a v =>
    exact outcomeSameButHiddenRk_onWindow size a fun off => writeOff_withRk (s := s.withProgram rest) k hv off v ht
  | wait =>
    have hs : (s.withRk k).readOff statusOffset = s.readOff statusOffset := readReg_withRk k hv _
    simp only [hostOp, hs]
    exact read _ statusOffset
  | sampleIrq => exact sameButHiddenRk_withRk k hv
  | waitIrq => exact sameButHiddenRk_withRk k hv
  | reset => exact sameButHiddenRk_refl _
  | otherMaster => rfl

end

theorem sameButHiddenRk_tick {s t : State} (h : SameButHiddenRk s t) : SameButHiddenRk s.tick t.tick := by
  rcases sameButHiddenRk_cases h with rfl | ⟨hv, k, rfl⟩
  · exact sameButHiddenRk_refl _
  · rw [State.tick_eq, State.tick_eq]
    exact sameButHiddenRk_withRk k hv

/-- One step keeps the relation and answers alike. -/
theorem step_sameButHiddenRk {s t : State} (h : SameButHiddenRk s t) : OutcomeSameButHiddenRk (step s) (step t) := by
  rcases sameButHiddenRk_cases h with rfl | ⟨hv, k, rfl⟩
  · exact outcomeSameButHiddenRk_refl _
  rcases turn_host_or_core s with ht | ht
  · have ht' : (s.withRk k).turn = .host := ht
    have hp' : (s.withRk k).program = s.program := rfl
    simp only [step, ht, ht', hostTurn, hp']
    split
    · exact sameButHiddenRk_tick h
    · refine outcomeSameButHiddenRk_onNext (hostOp_withRk k hv _ _ ht) fun u w huw => ?_
      split
      · exact sameButHiddenRk_tick huw
      · exact huw
  · have ht' : (s.withRk k).turn = .core := ht
    simp only [step, ht, ht']
    exact coreTurn_withRk k hv ht

/-- Settles O45, by induction on the number of steps. -/
theorem hiddenScheduleIsUnobservable : Obligations.HiddenScheduleIsUnobservable := by
  intro n
  induction n with
  | zero => exact fun s t h => h
  | succ n ih =>
    intro s t h
    have hstep := step_sameButHiddenRk h
    cases hs : step s <;> cases ht : step t <;> rw [hs, ht] at hstep
    case next.next u w =>
      rw [run_succ_next core hs, run_succ_next core ht]
      exact ih u w hstep
    case fault.fault =>
      rw [run_succ_fault core hs, run_succ_fault core ht]
      exact hstep
    case refused.refused =>
      rw [run_succ_refused core hs, run_succ_refused core ht]
      exact hstep
    all_goals exact hstep.elim

end Sys2Proof.Machine
end

section
/-! ### The bus (20_memory.md)

The offset decode, the window in the host's address space, and the rules for one access: `onWindow` answers or refuses it,
and a step at the host's turn is the host's next operation. -/

namespace Sys2Proof.Machine

/-! ### The offset decode (R61, R62) -/

theorem toNat_wordSlot (off : BitVec 8) : (off.extractLsb' 2 6).toNat = off.toNat / 4 := by
  rw [BitVec.extractLsb'_toNat, Nat.shiftRight_eq_div_pow]
  omega

/-- The mask 0xFC covers the word slot whole. -/
theorem regOf_and_0xFC (off : BitVec 8) : regOf (off &&& 0xFC) = regOf off := by
  have slot : (0xFC : BitVec 8).extractLsb' 2 6 = BitVec.allOnes 6 := rfl
  rw [regOf, regOf, BitVec.extractLsb'_and, slot, BitVec.and_allOnes]

/-- Settles O16: the map is by word slot, and the word slot of an offset is a fourth of it. -/
theorem offsetReachesItsWordSlot : Obligations.OffsetReachesItsWordSlot := by
  intro off
  have at_slot {n : Nat} (h : off.toNat / 4 = n) : regOf off = regAt (BitVec.ofNat 6 n) := by
    rw [regOf, ← h, ← toNat_wordSlot, BitVec.ofNat_toNat, BitVec.setWidth_eq]
  refine ⟨(regOf_and_0xFC off).symm, rfl, at_slot, at_slot, at_slot, at_slot, fun k h => ?key, fun k h => ?din,
    fun k h => ?dout, at_slot, at_slot, at_slot, fun h => regOf_eq_reserved (by omega)⟩
  all_goals
    rw [at_slot h]
    fin_cases k <;> rfl

/-- Settles O25: AES_BASE is `256 * aesPage`, and the window is the 256 addresses from it on. -/
theorem physicalAddressesOfTheWindow : Obligations.PhysicalAddressesOfTheWindow := by
  refine ⟨Nat.mul_mod_right 256 _, fun off => ?inside, fun addr => ?outside⟩
  case inside =>
    have ho : off.toNat < 256 := off.isLt
    simp [windowOffset, ho]
  case outside =>
    simp only [windowOffset, ite_eq_right_iff, reduceCtorEq, imp_false]
    omega

/-! ### One access (R64, R69) -/

section
variable (f : BitVec 8 → Result) {size : AccessSize} {a : Address}

theorem onWindow_of_narrow (h : size ≠ .word) : onWindow size a f = .refused .narrowAccess := by
  cases size
  case word => exact absurd rfl h
  all_goals rfl

theorem onWindow_of_outside (h : windowOffset a = none) : onWindow .word a f = .refused .outsideWindow := by
  simp only [onWindow, h]

theorem onWindow_of_inside {off : BitVec 8} (h : windowOffset a = some off) : onWindow .word a f = f off := by
  simp only [onWindow, h]

end

/-- What refuses an access is its size or its address, unless the register itself does. -/
theorem onWindow_refused {size : AccessSize} {a : Address} {f : BitVec 8 → Result} {r : Refusal}
    (hf : ∀ off, f off ≠ .refused r) (h : onWindow size a f = .refused r) :
    (size == .word && (windowOffset a).isSome) = false ∧ (r = .narrowAccess ∨ r = .outsideWindow) := by
  by_cases hs : size = .word
  · subst hs
    cases ha : windowOffset a with
    | none =>
      rw [onWindow_of_outside f ha] at h
      cases h
      exact ⟨rfl, .inr rfl⟩
    | some off =>
      rw [onWindow_of_inside f ha] at h
      exact absurd h (hf off)
  · rw [onWindow_of_narrow f hs] at h
    cases h
    exact ⟨by simp [hs], .inl rfl⟩

/-! ### A step at the host's turn (R71) -/

theorem step_hostOp {s : State} {op : HostOp} {rest : List HostOp} (ht : s.turn = .host)
    (hp : s.program = op :: rest) :
    step s = onNext (hostOp op rest s) fun t => if s.busy then t.tick else t := by
  simp only [step, ht, hostTurn, hp]

/-- An operation that starts and ends no command: its turn takes one off the countdown of a command in flight. -/
theorem step_hostOp_of_same_busy {s u : State} {op : HostOp} {rest : List HostOp} (ht : s.turn = .host)
    (hp : s.program = op :: rest) (hop : hostOp op rest s = .next u) (hb : u.busy = s.busy) :
    step s = .next { u with wait := if s.busy then u.wait - 1 else u.wait } := by
  rw [step_hostOp ht hp, hop, onNext, State.tick_eq, hb]
  cases s.busy <;> rfl

/-- Settles O23: a read of the window only observes, so its turn only counts down. -/
theorem hostReadHasNoSideEffect : Obligations.HostReadHasNoSideEffect := fun _ _ _ _ ht hp ha =>
  step_hostOp_of_same_busy ht hp (onWindow_of_inside _ ha) rfl

/-! ### Refusals (R64, R74) -/

theorem onNext_eq_refused {o : Result} {f : State → State} {r : Refusal} :
    onNext o f = .refused r ↔ o = .refused r := by
  cases o <;> simp [onNext]

theorem hostOp_refused {op : HostOp} {rest : List HostOp} {s : State} {r : Refusal}
    (h : hostOp op rest s = .refused r) :
    op.inScope = false ∧ (r = .narrowAccess ∨ r = .secondBusMaster ∨ r = .outsideWindow) := by
  cases op with
  | read size a => exact (onWindow_refused (fun off => by simp) h).imp_right (.imp_right .inr)
  | write size a v =>
    exact (onWindow_refused (fun off => writeReg_not_refused _ _ v r) h).imp_right (.imp_right .inr)
  | otherMaster =>
    cases h
    exact ⟨rfl, .inr (.inl rfl)⟩
  | wait | sampleIrq | waitIrq | reset => cases h

theorem coreTurn_not_refused (s : State) (r : Refusal) : coreTurn s ≠ .refused r := by
  cases hq : s.seq with
  | idle => simp [coreTurn, hq]
  | busy op rnd =>
    simp only [coreTurn, hq]
    exact exec_not_refused _ s r

/-- A refused step is a host operation outside the interface. -/
theorem step_refused {s : State} {r : Refusal} (h : step s = .refused r) :
    s.turn = .host ∧ ∃ op rest, s.program = op :: rest ∧ hostOp op rest s = .refused r := by
  rcases turn_host_or_core s with ht | ht
  · cases hp : s.program with
    | nil => simp [step, ht, hostTurn, hp] at h
    | cons op rest =>
      rw [step_hostOp ht hp, onNext_eq_refused] at h
      exact ⟨ht, op, rest, rfl, h⟩
  · simp only [step, ht] at h
    exact absurd h (coreTurn_not_refused s r)

/-- Settles O26: only the host's operation can be refused, and only by its size, its address or its master. -/
theorem onlyAccessesOutsideTheInterfaceAreRefused : Obligations.OnlyAccessesOutsideTheInterfaceAreRefused := by
  refine ⟨fun s size a v rest ht hs hp => ?narrow, fun s rest ht hp => ?master, fun s a v rest ht ha hp => ?outside,
    fun s r h => ?converse⟩
  case narrow =>
    rcases hp with hp | hp <;> rw [step_hostOp ht hp, onNext_eq_refused] <;> exact onWindow_of_narrow _ hs
  case master => rw [step_hostOp ht hp, onNext_eq_refused, hostOp]
  case outside =>
    rcases hp with hp | hp <;> rw [step_hostOp ht hp, onNext_eq_refused] <;> exact onWindow_of_outside _ ha
  case converse =>
    obtain ⟨ht, op, rest, hp, hop⟩ := step_refused h
    exact ⟨ht, op, rest, hp, hostOp_refused hop⟩

/-! ### Operand stability (R75) -/

/-- Settles O38: a turn of the host that only looks touches no register, and a write while BUSY none of these. -/
theorem operandsAreStableWhileBusy : Obligations.OperandsAreStableWhileBusy := by
  intro s t h hb ht hr
  rcases step_fields h with ⟨_, _, hc, -⟩ | ⟨-, p, tr, w, rfl⟩ | ⟨r, v, p, w, -, -, hw⟩ | ⟨-, hreset, -⟩
  · simp [ht] at hc
  · simp
  · rcases hw with ⟨-, rfl⟩ | ⟨hi, -⟩
    · obtain ⟨d, i1, i2, x, e, c, he⟩ := written_busy_keeps r v (s := s.withProgram p) hb
      simp [he]
    · simp [hb] at hi
  · exact absurd hreset hr

end Sys2Proof.Machine
end

section
/-! ### Encoding (30_encoding.md)

A CTRL value is its two fields and reserved bits: the fields determine the instruction, and the encoder writes them back. -/

namespace Sys2Proof.Machine

/-! ### Decode and encode (R88, R92, R93) -/

theorem arkOfRound_of_le {rnd : BitVec 4} (h : rnd.toNat ≤ 10) : arkOfRound rnd = .ark rnd := by
  revert rnd
  decide

theorem instrOfFields_of_illegal {op : BitVec 4} (rnd : BitVec 4) (h : 12 ≤ op.toNat) :
    instrOfFields op rnd = .illegal op rnd := by
  have hlt : op.toNat < 16 := op.isLt
  interval_cases hop : op.toNat <;> simp [instrOfFields, hop]

/-- A term an encoding exists for is what its own fields decode to. -/
theorem instrOfFields_op_round {i : Instr} (h : i.wf = true) : instrOfFields i.op i.round = i := by
  cases i
  case ark rnd => exact arkOfRound_of_le (of_decide_eq_true h)
  case illegal op rnd => exact instrOfFields_of_illegal rnd (of_decide_eq_true h)
  all_goals rfl

/-- Settles O1: the encoding carries both fields of the instruction (`of_byte`), and they determine it. -/
theorem decodeOfEncodeIsTheInstruction : Obligations.DecodeOfEncodeIsTheInstruction := by
  intro i h
  obtain ⟨hop, hround, -⟩ := Laws.EncodeFields.of_byte i.op i.round
  rw [decode, encode, hop, hround, instrOfFields_op_round h]

/-- The encoder writes back the fields the decoder read, with the reserved bits 0. -/
theorem encode_decode (v : Word) : encode (decode v) = v &&& 0x000000FF := by
  rw [encode, op_decode, round_decode, roundField_append_opField]
  exact setWidth_extractLsb'_eq_and_lowMask v 8

theorem decode_and_0xFF (v : Word) : decode (v &&& 0x000000FF) = decode v := by
  rw [← encode_decode, decodeOfEncodeIsTheInstruction _ (decode_wf v)]

/-- Settles O2: the low byte is the encoding of what the value decodes to, so it decodes alike, and a CTRL write acts on the
value through its decoding alone. -/
theorem encodeOfDecodeIsTheLowByte : Obligations.EncodeOfDecodeIsTheLowByte := fun v =>
  have hd : decode v = decode (v &&& 0x000000FF) := (decode_and_0xFF v).symm
  ⟨decode_wf v, encode_decode v, hd, fun s => congrArg (exec · s) hd⟩

/-- Settles O3: fixed words of the opcode map, by evaluation. -/
theorem wordsOfTheOpcodeMapDecode : Obligations.WordsOfTheOpcodeMapDecode := by
  unfold Obligations.WordsOfTheOpcodeMapDecode
  decide

/-! ### The step and the instruction (R92, R94) -/

/-- Offsets 0..3 are the word slot of CTRL. -/
theorem regOf_eq_ctrl {off : BitVec 8} (h : off.toNat < 4) : regOf off = .ctrl := by
  obtain ⟨-, -, hctrl, -⟩ := offsetReachesItsWordSlot off
  exact hctrl (Nat.div_eq_of_lt h)

/-- A CTRL write at the host's turn runs the decoded instruction. -/
theorem step_ctrlWrite {s : State} {v : Word} {a : Address} {off : BitVec 8} {rest : List HostOp} (ht : s.turn = .host)
    (hp : s.program = .write .word a v :: rest) (ha : windowOffset a = some off) (hoff : off.toNat < 4) :
    step s = onNext (exec (decode v) (s.withProgram rest)) fun t => if s.busy then t.tick else t := by
  rw [step_hostOp ht hp, hostOp, onWindow_of_inside _ ha, State.writeOff, regOf_eq_ctrl hoff, State.writeReg]

theorem step_pending {s : State} {op rnd : BitVec 4} (ht : s.turn = .core) (hq : s.seq = .busy op rnd) :
    step s = exec (instrOfFields op rnd) s := by
  simp only [step, ht, coreTurn, hq]

theorem onNext_id (o : Result) : onNext o (fun t => t) = o := by
  cases o <;> rfl

/-- While idle no completion is due, so placing a word only puts a CTRL write at the head of the program. -/
theorem withFetchWord_idle {s : State} (hb : s.busy = false) (nbits w : Nat) :
    s.withFetchWord nbits w =
      s.withProgram (.write .word (.window 0x00) (BitVec.ofNat 32 (w % 2 ^ nbits)) :: s.program) := by
  rw [State.withFetchWord, turn_host_of_not_busy hb]
  rfl

/-- A word placed while idle is run by the next step, which takes it off the program again. -/
theorem step_withFetchWord_idle {s : State} (w : Nat) (hb : s.busy = false) :
    step (s.withFetchWord 32 w) = exec (decode (BitVec.ofNat 32 w)) s := by
  have hw : BitVec.ofNat 32 (w % 2 ^ 32) = BitVec.ofNat 32 w := BitVec.eq_of_toNat_eq (by simp)
  have hrun := step_ctrlWrite
    (s := s.withProgram (.write .word (.window 0x00) (BitVec.ofNat 32 w) :: s.program))
    (turn_host_of_not_busy hb) rfl rfl (by decide)
  rw [withFetchWord_idle hb, hw, hrun, busy_withProgram, hb]
  exact onNext_id _

/-- Settles O4: the three places a step takes its instruction from. -/
theorem stepRunsTheDecodedInstruction : Obligations.StepRunsTheDecodedInstruction :=
  ⟨fun _ _ _ _ _ => step_ctrlWrite, fun _ _ _ => step_pending, fun _ => step_withFetchWord_idle⟩

/-! ### WAIT and IRQ (R94, 60_exceptions.md R226) -/

/-- The bit WAIT tests is BUSY. -/
theorem getLsbD_zero_readOff_status (s : State) : (s.readOff statusOffset).getLsbD 0 = s.busy := by
  obtain ⟨hbusy, -⟩ := statusReadShowsItsFields s
  exact hbusy

theorem hostOp_wait (s : State) (rest : List HostOp) :
    hostOp .wait rest s =
      .next ((s.withProgram (if s.busy then .wait :: rest else rest)).hostRead statusOffset) := by
  rw [hostOp, getLsbD_zero_readOff_status]

/-- Settles O24: the three operations only observe, so their turn only counts down. -/
theorem waitAndIrqOperationsOfTheHost : Obligations.WaitAndIrqOperationsOfTheHost := by
  intro s rest ht
  exact ⟨fun hp => step_hostOp_of_same_busy ht hp (hostOp_wait s rest) rfl,
    fun hp => step_hostOp_of_same_busy ht hp rfl rfl, fun hp => step_hostOp_of_same_busy ht hp rfl rfl⟩

end Sys2Proof.Machine
end

section
/-! ### What every step keeps

A step is one event: a completion, a turn of the host that only looks, a register write or the reset event. A
property of the core's registers that each event keeps is kept by every step; the invariant is five such properties, each
kept on its own. -/

namespace Sys2Proof.Machine

/-- `P` reads the core's registers alone, every completion and register write keeps it, and the reset event gives it. -/
structure KeptByEvents (P : State → Prop) : Prop where
  readsCore : ReadsCore P
  completion : ∀ {s : State} {op rnd : BitVec 4}, commandPair op rnd = true → P s →
    P ((effect (instrOfFields op rnd) s).finish op)
  write : ∀ (r : Reg) (v : Word) {s : State}, P s → P (written r v s)
  reset : ∀ s : State, P s.resetEvent

theorem KeptByEvents.keptByStep {P : State → Prop} (hP : KeptByEvents P) {s t : State} (hs : P s)
    (h : step s = .next t) : P t := by
  have looks (u : State) (p : List HostOp) (tr : List Obs) (w : Nat) (hu : P u) :
      P { u with program := p, trace := tr, wait := w } := (hP.readsCore u p tr w).mpr hu
  rcases step_fields h with ⟨op, rnd, -, -, -, -, hc, rfl⟩ | ⟨-, p, tr, w, rfl⟩ | ⟨r, v, p, w, -, -, ht⟩ |
    ⟨-, -, p, rfl⟩
  · exact hP.completion hc hs
  · exact looks s p tr w hs
  · have hw : P (written r v (s.withProgram p)) := hP.write r v (looks s p s.trace s.wait hs)
    rcases ht with ⟨-, rfl⟩ | ⟨-, rfl⟩
    · exact looks _ _ _ w hw
    · exact hw
  · exact hP.reset _

/-! ### KEY_VALID and the schedule (40_key_schedule.md R118) -/

theorem keyCacheCurrent_ensureKey {s : State} (h : KeyCacheCurrent s) : KeyCacheCurrent s.ensureKey := by
  rw [ensureKey_eq h]
  exact fun _ => rfl

/-- An effect that runs an expansion leaves the current schedule, and the others touch none of the four registers. -/
theorem keyCacheCurrent_effect (i : Instr) {s : State} (h : KeyCacheCurrent s) : KeyCacheCurrent (effect i s) := by
  cases i
  case keyexp => exact fun _ => rfl
  case enc | dec => exact keyCacheCurrent_ensureKey h
  case ark rnd =>
    rw [effect]
    split
    · exact keyCacheCurrent_ensureKey h
    · exact h
  all_goals exact h

/-- A register write that changes the key or its length clears KEY_VALID (10_state.md R25). -/
theorem written_keyValid_of_key_or_len_ne {r : Reg} {v : Word} {s : State}
    (h : (written r v s).key ≠ s.key ∨ (written r v s).len ≠ s.len) : (written r v s).keyValid = false := by
  rcases h with h | h
  · obtain ⟨hb, k, rfl⟩ := (written_frame r v s).key h
    simp [written, State.writeKey, hb]
  · obtain ⟨hb, rfl⟩ := (written_frame r v s).len h
    simp [written, State.writeKeylen, hb]

theorem keyCacheCurrent_written (r : Reg) (v : Word) {s : State} (h : KeyCacheCurrent s) :
    KeyCacheCurrent (written r v s) := by
  intro hv
  have hf := written_frame r v s
  have hkv : (written r v s).keyValid = s.keyValid := by
    by_contra hne
    simp [(hf.keyValid hne).1] at hv
  obtain ⟨hkey, hlen⟩ : (written r v s).key = s.key ∧ (written r v s).len = s.len := by
    by_contra hne
    simp [written_keyValid_of_key_or_len_ne (not_and_or.1 hne)] at hv
  rw [hf.rk, hkey, hlen, h (hkv ▸ hv)]

theorem keyCacheCurrent_kept : KeptByEvents KeyCacheCurrent where
  readsCore _ _ _ _ := rfl
  completion _ := keyCacheCurrent_effect _
  write := keyCacheCurrent_written
  reset _ h := nomatch h

/-- Settles O31: an expansion writes the current schedule, and what changes the key or forgets RK clears KEY_VALID. -/
theorem keyValidMeansTheScheduleIsCurrent : Obligations.KeyValidMeansTheScheduleIsCurrent :=
  ⟨nofun, fun _ _ => keyCacheCurrent_kept.keptByStep⟩

/-! ### DOUT and S (10_state.md R34, R38) -/

theorem doutShowsWork_effect (i : Instr) {s : State} (h : DoutShowsWork s) : DoutShowsWork (effect i s) := by
  cases i
  case ark rnd =>
    rw [effect]
    split
    · rfl
    · exact h
  case nop | keyexp | illegal | arkBadRound11 | arkBadRound12 | arkBadRound13 | arkBadRound14 | arkBadRound15 => exact h
  all_goals rfl

theorem doutShowsWork_kept : KeptByEvents DoutShowsWork where
  readsCore _ _ _ _ := rfl
  completion _ := doutShowsWork_effect _
  write r v s h := by rw [DoutShowsWork, (written_frame r v s).dout, (written_frame r v s).work, h]
  reset _ := show Four.fill 0 = b2w Block.zero by decide

/-! ### ERR and ERRCODE (10_state.md R26) -/

@[simp] theorem effect_err (i : Instr) (s : State) : (effect i s).err = s.err := by rw [effect_eq]

@[simp] theorem effect_errCode (i : Instr) (s : State) : (effect i s).errCode = s.errCode := by rw [effect_eq]

/-- A register write touches ERR and ERRCODE only by recording an error or as a STATUS write. -/
theorem written_err_cases (r : Reg) (v : Word) (s : State) :
    (∃ e, written r v s = s.raise e) ∨ written r v s = s.writeStatus v ∨
      ((written r v s).err = s.err ∧ (written r v s).errCode = s.errCode) := by
  cases hb : s.busy
  · cases r
    case ctrl =>
      rcases written_ctrl_idle_cases v hb with ⟨-, he⟩ | ⟨-, he⟩ | he
      · simp [he]
      · simp [he]
      · exact .inl he
    case status => exact .inr (.inl rfl)
    all_goals simp [written, State.writeKeylen, State.writeKey, State.writeDin, hb]
  · rcases busy_written r v s hb with ⟨-, he⟩ | ⟨-, he⟩ | ⟨-, he⟩ | ⟨-, he⟩ | ⟨he, -⟩
    · exact .inl ⟨_, he⟩
    · exact .inr (.inl he)
    all_goals simp [he]

theorem code_range (e : ErrCode) : 1 ≤ e.code.toNat ∧ e.code.toNat ≤ 3 := by
  cases e <;> decide

theorem errCodeLegal_raise (e : ErrCode) {s : State} (h : ErrCodeLegal s) : ErrCodeLegal (s.raise e) := by
  obtain ⟨-, hset⟩ := h
  cases he : s.err
  · simpa [ErrCodeLegal, he] using code_range e
  · simpa [ErrCodeLegal, he] using hset he

theorem errCodeLegal_writeStatus (v : Word) {s : State} (h : ErrCodeLegal s) : ErrCodeLegal (s.writeStatus v) := by
  rw [ErrCodeLegal, State.writeStatus_err, State.writeStatus_errCode]
  cases v.getLsbD 3
  · simpa [ErrCodeLegal] using h
  · simp

theorem errCodeLegal_kept : KeptByEvents ErrCodeLegal where
  readsCore _ _ _ _ := rfl
  completion _ h := by simpa [ErrCodeLegal] using h
  write r v s h := by
    rcases written_err_cases r v s with ⟨e, he⟩ | he | ⟨he, hc⟩
    · exact he ▸ errCodeLegal_raise e h
    · exact he ▸ errCodeLegal_writeStatus v h
    · rwa [ErrCodeLegal, he, hc]
  reset _ := by simp [ErrCodeLegal]

/-! ### LAST_OP and DONE (10_state.md R24, R27) -/

theorem lastOpLegal_finish (s : State) {op rnd : BitVec 4} (h : commandPair op rnd = true) :
    LastOpLegal (s.finish op) := by
  obtain ⟨h1, h11, -⟩ := of_decide_eq_true h
  refine ⟨h11, fun _ h0 => ?_⟩
  simp only [State.finish_lastOp] at h0
  simp [h0] at h1

/-- A register write can clear DONE and not set it. -/
theorem done_of_written_done {r : Reg} {v : Word} {s : State} (h : (written r v s).done = true) : s.done = true := by
  by_contra hs
  have hf := ((written_frame r v s).done fun he => hs (he ▸ h)).1
  simp [hf] at h

theorem lastOpLegal_kept : KeptByEvents LastOpLegal where
  readsCore _ _ _ _ := rfl
  completion hc _ := lastOpLegal_finish _ hc
  write r v s h := by
    rw [LastOpLegal, (written_frame r v s).lastOp]
    exact h.imp_right fun hdone hd => hdone (done_of_written_done hd)
  reset _ := by simp [LastOpLegal]

/-! ### The sequencer (10_state.md R43) -/

theorem sequencerLegal_of_idle {s : State} (h : s.seq = .idle) : sequencerLegal s = true := by
  simp [sequencerLegal, h]

theorem sequencerLegal_busy_iff {s : State} {op rnd : BitVec 4} (h : s.seq = .busy op rnd) :
    sequencerLegal s = true ↔ commandPair op rnd = true ∧ s.done = false ∧ s.ctrlRb = rnd ++ op := by
  simp [sequencerLegal, h, and_assoc]

theorem sequencerLegal_accept (s : State) {op rnd : BitVec 4} (h : commandPair op rnd = true) :
    sequencerLegal (s.accept op rnd) = true :=
  (sequencerLegal_busy_iff rfl).2 ⟨h, rfl, rfl⟩

/-- While idle a write leaves the core idle or is an acceptance. -/
theorem sequencerLegal_written_idle (r : Reg) (v : Word) {s : State} (hb : s.busy = false) :
    sequencerLegal (written r v s) = true := by
  by_cases hq : (written r v s).seq = s.seq
  · exact sequencerLegal_of_idle (hq.trans (busy_eq_false_iff.1 hb))
  · obtain ⟨-, rfl, hc, -⟩ := (written_frame r v s).seq hq
    rcases written_ctrl_idle_cases v hb with ⟨-, he⟩ | ⟨-, he⟩ | ⟨e, he⟩
    · exact he ▸ sequencerLegal_accept s hc
    · simp [he] at hq
    · simp [he] at hq

/-- While BUSY no write touches the command in flight or CTRL_RB, and none sets DONE. -/
theorem sequencerLegal_written_busy (r : Reg) (v : Word) {s : State} (hb : s.busy = true)
    (h : sequencerLegal s = true) : sequencerLegal (written r v s) = true := by
  obtain ⟨op, rnd, hq⟩ := busy_eq_true_iff.1 hb
  obtain ⟨hc, hd, hrb⟩ := (sequencerLegal_busy_iff hq).1 h
  have hf := written_frame r v s
  have hq' : (written r v s).seq = s.seq := by
    by_contra hne
    simp [(hf.seq hne).1] at hb
  have hrb' : (written r v s).ctrlRb = s.ctrlRb := by
    by_contra hne
    simp [(hf.ctrlRb hne).1] at hb
  have hd' : (written r v s).done = false := by
    by_contra hne
    simp [done_of_written_done (Bool.eq_true_of_not_eq_false hne)] at hd
  exact (sequencerLegal_busy_iff (hq'.trans hq)).2 ⟨hc, hd', hrb'.trans hrb⟩

theorem sequencerLegal_kept : KeptByEvents fun s => sequencerLegal s = true where
  readsCore _ _ _ _ := rfl
  completion _ _ := rfl
  write r v s h := by
    cases hb : s.busy
    · exact sequencerLegal_written_idle r v hb
    · exact sequencerLegal_written_busy r v hb h
  reset _ := rfl

/-- Settles O30: each of the five parts is kept by itself. -/
theorem everyStepKeepsTheInvariant : Obligations.EveryStepKeepsTheInvariant := by
  rintro s t ⟨hkey, hdout, herr, hlast, hseq⟩ h
  exact ⟨keyCacheCurrent_kept.keptByStep hkey h, doutShowsWork_kept.keptByStep hdout h, errCodeLegal_kept.keptByStep herr h,
    lastOpLegal_kept.keptByStep hlast h, sequencerLegal_kept.keptByStep hseq h⟩

end Sys2Proof.Machine
end

section
/-! ### Key normalisation and the key schedule (40_key_schedule.md)

A byte of the normalised key is the key register's below LEN and 0x01 from there on; a word of the schedule, once pushed,
stays, so the recurrence of `expandTo` holds of the whole schedule. -/

namespace Sys2Proof.Machine

/-! ### Normalisation (R111, R112) -/

/-- R111's bound of 16 is met by every byte number. -/
@[simp] theorem at_normalizeKey (kreg : Block) (len : BitVec 5) (r c : Fin 4) :
    (normalizeKey kreg len).at' r c = if r.val + 4 * c.val < len.toNat then kreg.at' r c else 0x01 := by
  have hj : r.val + 4 * c.val < min len.toNat 16 ↔ r.val + 4 * c.val < len.toNat := by omega
  rw [normalizeKey, Block.at_ofRC, if_congr hj rfl rfl]

theorem normalizeKey_congr {kreg kreg' : Block} {len : BitVec 5}
    (h : ∀ r c : Fin 4, r.val + 4 * c.val < len.toNat → kreg.at' r c = kreg'.at' r c) :
    normalizeKey kreg len = normalizeKey kreg' len := by
  refine Block.ext_at fun r c => ?_
  rw [at_normalizeKey, at_normalizeKey]
  split
  · exact h r c ‹_›
  · rfl

theorem normalizeKey_of_16_le (kreg : Block) {len : BitVec 5} (h : 16 ≤ len.toNat) : normalizeKey kreg len = kreg :=
  Block.ext_at fun r c => by rw [at_normalizeKey, if_pos (by omega)]

/-- A key that ends in the padding byte normalises as the key without it. -/
theorem normalizeKey_succ {kreg : Block} {len : BitVec 5} (hlen : len.toNat < 16)
    (h : ∀ r c : Fin 4, r.val + 4 * c.val = len.toNat → kreg.at' r c = 0x01) :
    normalizeKey kreg (len + 1) = normalizeKey kreg len := by
  have hsucc : (len + 1).toNat = len.toNat + 1 := by bv_omega
  refine Block.ext_at fun r c => ?_
  rw [at_normalizeKey, at_normalizeKey, hsucc]
  rcases lt_trichotomy (r.val + 4 * c.val) len.toNat with hlt | heq | hgt
  · rw [if_pos (by omega), if_pos hlt]
  · rw [if_pos (by omega), if_neg (by omega), h r c heq]
  · rw [if_neg (by omega), if_neg (by omega)]

/-- Settles O52, byte by byte from `at_normalizeKey`. -/
theorem normalisationCornerCases : Obligations.NormalisationCornerCases := by
  refine ⟨fun kreg r c => ?zero, fun kreg r c => ?fifteen, fun kreg _ => normalizeKey_of_16_le kreg,
    fun _ _ _ => normalizeKey_congr, fun _ _ => normalizeKey_succ,
    fun s v hb => ⟨_, writeReg_keylen_idle v hb, rfl⟩, rfl⟩
  case zero => simp
  case fifteen =>
    have hlast : r.val + 4 * c.val < (15 : BitVec 5).toNat ↔ ¬(r = 3 ∧ c = 3) := by
      revert r c
      decide
    rw [at_normalizeKey, if_congr hlast rfl rfl, ite_not]

/-! ### The schedule (R113) -/

theorem getElem_expandTo_succ (K : Block) {n i : Nat} (hi : i < 4 + n) :
    (expandTo K (n + 1))[i] = (expandTo K n)[i] :=
  Vector.getElem_push_lt hi

/-- A word of the schedule stays as it was pushed. -/
theorem getElem_expandTo_of_le (K : Block) {n m i : Nat} (hnm : n ≤ m) (hi : i < 4 + n) :
    (expandTo K m)[i] = (expandTo K n)[i] := by
  induction m, hnm using Nat.le_induction with
  | base => rfl
  | succ m hnm ih => rw [getElem_expandTo_succ K (by omega), ih]

theorem getElem_expand (K : Block) {n i : Nat} (hn : n ≤ 40) (hi : i < 4 + n) :
    (expand K)[i] = (expandTo K n)[i] :=
  getElem_expandTo_of_le K hn hi

theorem getElem_expand_of_lt_four (K : Block) (c : Fin 4) : (expand K)[c.val] = K.get c := by
  rw [getElem_expand K (Nat.zero_le 40) c.isLt]
  fin_cases c <;> rfl

/-- The word pushed at index `n + 4` is `nextWord` of the words before it. -/
theorem getElem_expand_add_four (K : Block) {n : Nat} (hn : n < 40) :
    (expand K)[n + 4] = nextWord (n + 4) (expand K)[n] (expand K)[n + 3] := by
  have before {i : Nat} (hi : i < 4 + n) : (expand K)[i] = (expandTo K n)[i] := getElem_expand K hn.le hi
  have pushed : (expandTo K (n + 1))[4 + n] = nextWord (4 + n) (expandTo K n)[n] (expandTo K n)[4 + n - 1] :=
    Vector.getElem_push_eq
  simp only [Nat.add_comm 4 n] at pushed
  rw [getElem_expand K (n := n + 1) hn (by omega), before (by omega), before (by omega)]
  exact pushed

/-- `nextWord` byte by byte (R113 to R116): RotWord is in the order of the bytes substituted, and the round constant goes
into the first. -/
theorem nextWord_eq {i : Nat} (hi : i / 4 < 11) (a prev : Quad) :
    nextWord i a prev =
      let temp : Quad :=
        if i % 4 = 0 then ⟨sbox prev.x1 ^^^ rcon[i / 4], sbox prev.x2, sbox prev.x3, sbox prev.x0⟩ else prev
      Four.ofFn fun r => a.get r ^^^ temp.get r := by
  have hr : rconAt (i / 4) = rcon[i / 4] := dif_pos hi
  rw [nextWord, hr]
  rfl

/-- Settles O53: a word once pushed stays, and `nextWord` is R113's rule for one word. -/
theorem scheduleFollowsTheRecurrence : Obligations.ScheduleFollowsTheRecurrence := fun K =>
  ⟨getElem_expand_of_lt_four K, fun n => (getElem_expand_add_four K n.isLt).trans (nextWord_eq (by omega) _ _)⟩

/-! ### KEYEXP (R120) -/

/-- Settles O9: KEYEXP's effect is the expansion alone. -/
theorem keyexpCompletes : Obligations.KeyexpCompletes := fun _ _ ht => exec_core ht rfl

end Sys2Proof.Machine
end

section
/-! ### The round transforms (41_round_transforms.md)

`xtime` is linear, and so is `gmul` on the left: a product by a constant is an exclusive OR of repeated `xtime`.
MixColumn twice is the pre-whitening of InvMixColumn, which is an involution: MixColumn has order four, and InvMixColumn
is its cube. -/

namespace Sys2Proof.Machine

theorem xor_left_comm (a b c : Byte) : a ^^^ (b ^^^ c) = b ^^^ (a ^^^ c) := by ac_rfl

/-! ### xtime and gmul (R131 to R133) -/

@[simp] theorem xtime_xor (a b : Byte) : xtime (a ^^^ b) = xtime a ^^^ xtime b := by
  have hmask : (if (a ^^^ b).getLsbD 7 then 0x1B else 0x00 : Byte) =
      (if a.getLsbD 7 then 0x1B else 0x00) ^^^ (if b.getLsbD 7 then 0x1B else 0x00) := by
    rw [BitVec.getLsbD_xor]
    cases a.getLsbD 7 <;> cases b.getLsbD 7 <;> rfl
  rw [xtime, xtime, xtime, BitVec.shiftLeft_xor_distrib, hmask]
  ac_rfl

/-- The kernel of `xtime` is trivial, and `xtime` is linear. -/
theorem xtime_injective : Function.Injective xtime := by
  have kernel : ∀ d : Byte, xtime d = 0x00 → d = 0x00 := by decide
  intro a b h
  exact BitVec.xor_eq_zero_iff.1 (kernel _ (by rw [xtime_xor, h, BitVec.xor_self]; rfl))

theorem xtimes_xor (i : Nat) (a b : Byte) : xtimes i (a ^^^ b) = xtimes i a ^^^ xtimes i b := by
  induction i with
  | zero => rfl
  | succ i ih => rw [xtimes, ih, xtime_xor]; rfl

theorem xtimes_xtime (i : Nat) (a : Byte) : xtimes i (xtime a) = xtime (xtimes i a) := by
  induction i with
  | zero => rfl
  | succ i ih => rw [xtimes, ih]; rfl

theorem gmul_xor_left (a b c : Byte) : gmul (a ^^^ b) c = gmul a c ^^^ gmul b c := by
  refine List.foldl_hom₂ (List.range 8) (· ^^^ ·) _ _ _ 0x00#8 0x00#8 fun r r' i => ?_
  split
  · rw [xtimes_xor]; ac_rfl
  · rfl

theorem gmul_xtime_left (a b : Byte) : gmul (xtime a) b = xtime (gmul a b) := by
  refine List.foldl_hom xtime (init := 0x00) fun r i => ?_
  split
  · rw [xtime_xor, xtimes_xtime]
  · rfl

theorem gmul_one_left (b : Byte) : gmul 0x01 b = b := by
  revert b
  decide

theorem gmul_two_right (a : Byte) : gmul a 0x02 = xtime a := BitVec.zero_xor

/-- Without its bit 8 the shifted byte is what `<<<` keeps; bit 8 is `a[7]`, which 0x11B clears. -/
theorem setWidth_xtime (a : Byte) :
    (xtime a).setWidth 9 = (a.setWidth 9 <<< 1) ^^^ (if a.getLsbD 7 then 0x11B#9 else 0x000#9) := by
  revert a
  decide

/-- Settles O50: linearity reduces injectivity to the kernel, and an injection of bytes is a bijection. -/
theorem xtimeIsALinearBijection : Obligations.XtimeIsALinearBijection :=
  ⟨rfl, rfl, rfl, rfl, rfl, rfl, rfl, rfl, rfl, xtime_xor, Finite.injective_iff_bijective.1 xtime_injective,
    fun a => ⟨gmul_two_right a, setWidth_xtime a⟩⟩

theorem gmul_two_left (b : Byte) : gmul 0x02 b = xtime b := by
  rw [show (0x02 : Byte) = xtime 0x01 from rfl, gmul_xtime_left, gmul_one_left]

theorem gmul_four_left (b : Byte) : gmul 0x04 b = xtime (xtime b) := by
  rw [show (0x04 : Byte) = xtime 0x02 from rfl, gmul_xtime_left, gmul_two_left]

theorem gmul_eight_left (b : Byte) : gmul 0x08 b = xtime (xtime (xtime b)) := by
  rw [show (0x08 : Byte) = xtime 0x04 from rfl, gmul_xtime_left, gmul_four_left]

theorem gmul_three_left (b : Byte) : gmul 0x03 b = xtime b ^^^ b := by
  rw [show (0x03 : Byte) = 0x02 ^^^ 0x01 from rfl, gmul_xor_left, gmul_two_left, gmul_one_left]

theorem gmul_nine_left (b : Byte) : gmul 0x09 b = xtime (xtime (xtime b)) ^^^ b := by
  rw [show (0x09 : Byte) = 0x08 ^^^ 0x01 from rfl, gmul_xor_left, gmul_eight_left, gmul_one_left]

theorem gmul_eleven_left (b : Byte) : gmul 0x0b b = xtime (xtime (xtime b)) ^^^ (xtime b ^^^ b) := by
  rw [show (0x0b : Byte) = 0x08 ^^^ 0x03 from rfl, gmul_xor_left, gmul_eight_left, gmul_three_left]

theorem gmul_thirteen_left (b : Byte) : gmul 0x0d b = xtime (xtime b) ^^^ (xtime (xtime (xtime b)) ^^^ b) := by
  rw [show (0x0d : Byte) = 0x04 ^^^ 0x09 from rfl, gmul_xor_left, gmul_four_left, gmul_nine_left]

theorem gmul_fourteen_left (b : Byte) :
    gmul 0x0e b = xtime (xtime (xtime b)) ^^^ (xtime (xtime b) ^^^ xtime b) := by
  rw [show (0x0e : Byte) = 0x08 ^^^ (0x04 ^^^ 0x02) from rfl, gmul_xor_left, gmul_xor_left, gmul_eight_left,
    gmul_four_left, gmul_two_left]

/-! ### MixColumn and InvMixColumn (R138, R141, R142) -/

/-- R138's `t`. -/
def columnSum (a : Quad) : Byte := a.x0 ^^^ a.x1 ^^^ a.x2 ^^^ a.x3

theorem columnSum_eq_from (a : Quad) (r : Fin 4) :
    columnSum a = a.get r ^^^ a.get (r + 1) ^^^ a.get (r + 2) ^^^ a.get (r + 3) := by
  rw [columnSum]
  match r with
  | 0 => rfl
  | 1 => change _ = a.x1 ^^^ a.x2 ^^^ a.x3 ^^^ a.x0; ac_rfl
  | 2 => change _ = a.x2 ^^^ a.x3 ^^^ a.x0 ^^^ a.x1; ac_rfl
  | 3 => change _ = a.x3 ^^^ a.x0 ^^^ a.x1 ^^^ a.x2; ac_rfl

theorem get_mixColumn (a : Quad) (r : Fin 4) :
    (mixColumn a).get r = a.get r ^^^ columnSum a ^^^ xtime (a.get r ^^^ a.get (r + 1)) := by
  fin_cases r <;> rfl

/-- The pre-whitening of InvMixColumn (R141). -/
def preWhiten (a : Quad) : Quad :=
  let u := xtime (xtime (a.x0 ^^^ a.x2))
  let v := xtime (xtime (a.x1 ^^^ a.x3))
  ⟨a.x0 ^^^ u, a.x1 ^^^ v, a.x2 ^^^ u, a.x3 ^^^ v⟩

theorem invMixColumn_eq (a : Quad) : invMixColumn a = mixColumn (preWhiten a) := rfl

/-- Rows 0 and 2 share `u` and rows 1 and 3 share `v`: each row takes in its sum with the row two below. -/
theorem get_preWhiten (a : Quad) (r : Fin 4) :
    (preWhiten a).get r = a.get r ^^^ xtime (xtime (a.get r ^^^ a.get (r + 2))) := by
  match r with
  | 0 | 1 => rfl
  | 2 => exact congrArg (fun u => a.x2 ^^^ xtime (xtime u)) (BitVec.xor_comm ..)
  | 3 => exact congrArg (fun v => a.x3 ^^^ xtime (xtime v)) (BitVec.xor_comm ..)

/-- Pre-whitening keeps `u` and `v`, so a second one takes them out again. -/
theorem preWhiten_preWhiten (a : Quad) : preWhiten (preWhiten a) = a := by
  refine Four.ext_get fun r => ?_
  have hsum : (preWhiten a).get r ^^^ (preWhiten a).get (r + 2) = a.get r ^^^ a.get (r + 2) := by
    simp [get_preWhiten, add_assoc, BitVec.xor_assoc, BitVec.xor_comm]
  rw [get_preWhiten, hsum, get_preWhiten, xor_cancel_right]

/-- MixColumn keeps `t`: every product by 2 stands in two rows. -/
theorem columnSum_mixColumn (a : Quad) : columnSum (mixColumn a) = columnSum a := by
  have pairs_cancel (t x y z w x' y' z' w' : Byte) :
      (x ^^^ t ^^^ (x' ^^^ y')) ^^^ (y ^^^ t ^^^ (y' ^^^ z')) ^^^ (z ^^^ t ^^^ (z' ^^^ w')) ^^^
        (w ^^^ t ^^^ (w' ^^^ x')) = x ^^^ y ^^^ z ^^^ w := by
    simp only [BitVec.xor_assoc, BitVec.xor_comm, xor_left_comm, xor_cancel_left, BitVec.xor_self, BitVec.xor_zero]
  rw [columnSum_eq_from (mixColumn a) 0, columnSum_eq_from a 0]
  simp only [get_mixColumn, xtime_xor]
  exact pairs_cancel ..

/-- With `t` kept, `t` and the products by 2 of the second pass cancel those of the first. -/
theorem mixColumn_mixColumn (a : Quad) : mixColumn (mixColumn a) = preWhiten a := by
  refine Four.ext_get fun r => ?_
  have hsum : (mixColumn a).get r ^^^ (mixColumn a).get (r + 1) =
      (a.get r ^^^ a.get (r + 1)) ^^^ xtime (a.get r ^^^ a.get (r + 2)) := by
    simp [get_mixColumn, add_assoc, BitVec.xor_assoc, xor_left_comm]
  rw [get_mixColumn, columnSum_mixColumn, hsum, get_mixColumn, get_preWhiten, xtime_xor (_ ^^^ _)]
  simp only [BitVec.xor_assoc, xor_left_comm, xor_cancel_left]

@[simp] theorem mixColumn_invMixColumn (a : Quad) : mixColumn (invMixColumn a) = a := by
  rw [invMixColumn_eq, mixColumn_mixColumn, preWhiten_preWhiten]

@[simp] theorem invMixColumn_mixColumn (a : Quad) : invMixColumn (mixColumn a) = a := by
  rw [invMixColumn_eq, ← mixColumn_mixColumn (mixColumn a), mixColumn_mixColumn (mixColumn (mixColumn a)),
    mixColumn_mixColumn a, preWhiten_preWhiten]

theorem get_mixColumn_eq_gmul (a : Quad) (r : Fin 4) : (mixColumn a).get r =
    gmul 0x02 (a.get r) ^^^ gmul 0x03 (a.get (r + 1)) ^^^ a.get (r + 2) ^^^ a.get (r + 3) := by
  rw [gmul_two_left, gmul_three_left, get_mixColumn, columnSum_eq_from a r, xtime_xor]
  simp only [BitVec.xor_assoc, xor_cancel_left]
  ac_rfl

theorem columnSum_preWhiten (a : Quad) : columnSum (preWhiten a) = columnSum a := by
  have pairs_cancel (x y z w u v : Byte) :
      (x ^^^ u) ^^^ (y ^^^ v) ^^^ (z ^^^ u) ^^^ (w ^^^ v) = x ^^^ y ^^^ z ^^^ w := by
    simp only [BitVec.xor_assoc, BitVec.xor_comm, xor_left_comm, xor_cancel_left, BitVec.xor_self, BitVec.xor_zero]
  exact pairs_cancel ..

theorem get_invMixColumn_eq_gmul (a : Quad) (r : Fin 4) : (invMixColumn a).get r =
    gmul 0x0e (a.get r) ^^^ gmul 0x0b (a.get (r + 1)) ^^^ gmul 0x0d (a.get (r + 2)) ^^^ gmul 0x09 (a.get (r + 3)) := by
  have hsum : (preWhiten a).get r ^^^ (preWhiten a).get (r + 1) =
      (a.get r ^^^ a.get (r + 1)) ^^^ xtime (xtime (columnSum a)) := by
    rw [columnSum_eq_from a r]
    simp only [get_preWhiten, add_assoc, Fin.reduceAdd, xtime_xor]
    ac_rfl
  rw [invMixColumn_eq, get_mixColumn, columnSum_preWhiten, hsum, get_preWhiten, BitVec.xor_comm (a.get r) (xtime _),
    columnSum_eq_from a r, gmul_fourteen_left, gmul_eleven_left, gmul_thirteen_left, gmul_nine_left]
  simp only [xtime_xor, BitVec.xor_assoc, xor_cancel_left]
  ac_rfl

/-- Settles O49: the constants are exclusive ORs of powers of `xtime`, and `gmul` is linear in them. -/
theorem mixColumnsAreTheStandardMatrices : Obligations.MixColumnsAreTheStandardMatrices := fun a r =>
  ⟨get_mixColumn_eq_gmul a r, get_invMixColumn_eq_gmul a r⟩

/-! ### The transforms byte by byte (R134 to R137, R139, R141, R143) -/

@[simp] theorem at_subBytes (s : Block) (r c : Fin 4) : (subBytes s).at' r c = sbox (s.at' r c) :=
  Block.at_mapBytes sbox s r c

@[simp] theorem at_invSubBytes (s : Block) (r c : Fin 4) : (invSubBytes s).at' r c = invSbox (s.at' r c) :=
  Block.at_mapBytes invSbox s r c

@[simp] theorem at_shiftRows (s : Block) (r c : Fin 4) : (shiftRows s).at' r c = s.at' r (c + r) :=
  Block.at_ofRC _ r c

@[simp] theorem at_invShiftRows (s : Block) (r c : Fin 4) : (invShiftRows s).at' r c = s.at' r (c - r) :=
  Block.at_ofRC _ r c

@[simp] theorem get_mixColumns (s : Block) (c : Fin 4) : (mixColumns s).get c = mixColumn (s.get c) :=
  Four.get_map mixColumn s c

@[simp] theorem get_invMixColumns (s : Block) (c : Fin 4) : (invMixColumns s).get c = invMixColumn (s.get c) :=
  Four.get_map invMixColumn s c

theorem at_roundKey (rk : Schedule) (n : Fin 11) (r c : Fin 4) :
    (roundKey rk n).at' r c = (rk[4 * n.val + c.val]).get r := by
  fin_cases c <;> rfl

theorem at_addRoundKey (s : Block) (rk : Schedule) (n : Fin 11) (r c : Fin 4) :
    (addRoundKey s rk n).at' r c = s.at' r c ^^^ (rk[4 * n.val + c.val]).get r := by
  rw [addRoundKey, Block.at_xor, at_roundKey]

/-! ### Inverse laws (R144) -/

@[simp] theorem invSubBytes_subBytes (s : Block) : invSubBytes (subBytes s) = s := Block.ext_at fun r c => by simp

@[simp] theorem subBytes_invSubBytes (s : Block) : subBytes (invSubBytes s) = s := Block.ext_at fun r c => by simp

@[simp] theorem invShiftRows_shiftRows (s : Block) : invShiftRows (shiftRows s) = s := Block.ext_at fun r c => by simp

@[simp] theorem shiftRows_invShiftRows (s : Block) : shiftRows (invShiftRows s) = s := Block.ext_at fun r c => by simp

@[simp] theorem invMixColumns_mixColumns (s : Block) : invMixColumns (mixColumns s) = s := Four.ext_get fun c => by simp

@[simp] theorem mixColumns_invMixColumns (s : Block) : mixColumns (invMixColumns s) = s := Four.ext_get fun c => by simp

@[simp] theorem addRoundKey_addRoundKey (s : Block) (rk : Schedule) (n : Fin 11) :
    addRoundKey (addRoundKey s rk n) rk n = s :=
  Block.ext_at fun r c => by simp [addRoundKey]

theorem subBytes_shiftRows (s : Block) : subBytes (shiftRows s) = shiftRows (subBytes s) :=
  Block.ext_at fun r c => by simp

theorem invSubBytes_invShiftRows (s : Block) : invSubBytes (invShiftRows s) = invShiftRows (invSubBytes s) :=
  Block.ext_at fun r c => by simp

/-- Settles O48: each transform is undone byte by byte or column by column. -/
theorem inverseLawsOfTheTransforms : Obligations.InverseLawsOfTheTransforms := fun s =>
  ⟨invSubBytes_subBytes s, subBytes_invSubBytes s, invShiftRows_shiftRows s, shiftRows_invShiftRows s,
    invMixColumns_mixColumns s, mixColumns_invMixColumns s, addRoundKey_addRoundKey s, subBytes_shiftRows s,
    invSubBytes_invShiftRows s⟩

/-! ### The primitive commands (R150 to R156) -/

/-- Settles O12: each effect is the transform of S alone. -/
theorem primitivesTransformTheWorkingState : Obligations.PrimitivesTransformTheWorkingState := fun _ _ ht =>
  ⟨exec_core ht rfl, exec_core ht rfl, exec_core ht rfl, exec_core ht rfl, exec_core ht rfl, exec_core ht rfl⟩

theorem effect_ark {rnd : BitVec 4} (h : rnd.toNat ≤ 10) {s : State} (hk : KeyCacheCurrent s) :
    effect (.ark rnd) s = State.transformWork { s with rk := scheduleOf s.key s.len, keyValid := true }
      fun b => addRoundKey b (scheduleOf s.key s.len) ⟨rnd.toNat, by omega⟩ := by
  rw [effect, dif_pos h, arkEffect, ensureKey_eq hk]

/-- Settles O13: cached or not, the schedule added from is the current one. -/
theorem arkCompletesWithTheRoundKeyAdded : Obligations.ArkCompletesWithTheRoundKeyAdded := by
  intro rnd s hk ht h RK S
  have hS : addRoundKey s.work RK ⟨rnd.toNat, by omega⟩ = S :=
    Block.ext_at fun r c => by rw [at_addRoundKey, Block.at_ofRC]
  rw [exec_core (i := .ark rnd) ht (decide_eq_true h), effect_ark h hk, ← hS]
  rfl

end Sys2Proof.Machine
end

section
/-! ### Acceptance and the block commands (42_block_cipher.md)

A command accepted while idle is one update of the state (R180); its completion is its effect and the end of the command
(R181). With a current key cache the effects of ENC and DEC are functions of DIN, KEY and KEYLEN. -/

namespace Sys2Proof.Machine

/-! ### Acceptance and NOP (R180, R185) -/

/-- Settles O5: the completion time is the one `accept` draws. -/
theorem commandIsAcceptedWhenIdle : Obligations.CommandIsAcceptedWhenIdle := by
  intro i s hw hb hc
  refine ⟨Config.latency s.draw i.op, ?_⟩
  rw [exec_idle i hb, writeEffect_of_completes s ((completes_iff_pair hw).trans hc), State.accept]

/-- Settles O6: NOP's whole effect is its acceptance. -/
theorem nopWritesOnlyTheReadback : Obligations.NopWritesOnlyTheReadback := fun _ _ hb => exec_idle _ hb

/-! ### The block commands (R176, R182 to R184) -/

theorem encEffect_eq {s : State} (hk : KeyCacheCurrent s) :
    encEffect s = State.storeWork { s with rk := scheduleOf s.key s.len, keyValid := true }
      (encryptBlock (w2b s.din) (scheduleOf s.key s.len)) := by
  rw [encEffect, ensureKey_eq hk]

theorem decEffect_eq {s : State} (hk : KeyCacheCurrent s) :
    decEffect s = State.storeWork { s with rk := scheduleOf s.key s.len, keyValid := true }
      (decryptBlock (w2b s.din) (scheduleOf s.key s.len)) := by
  rw [decEffect, ensureKey_eq hk]

/-- Settles O10: cached or not, the schedule used is the current one. -/
theorem encAndDecCompleteWithTheCipherOfDin : Obligations.EncAndDecCompleteWithTheCipherOfDin := by
  intro rnd s hk ht RK ends
  refine ⟨?enc, ?dec⟩
  case enc =>
    rw [exec_core (i := .enc rnd) ht rfl, effect, encEffect_eq hk]
    rfl
  case dec =>
    rw [exec_core (i := .dec rnd) ht rfl, effect, decEffect_eq hk]
    rfl

/-- Settles O11: packing the bytes of DIN gives DIN back. -/
theorem loadCompletesWithDoutEqualToDin : Obligations.LoadCompletesWithDoutEqualToDin := by
  intro rnd s ht
  rw [exec_core (i := .load rnd) ht rfl, effect, State.storeWork, b2w_w2b]
  rfl

/-- Settles O46: both next states are written out by O10, in DIN and the normalised key. -/
theorem blockResultsDependOnlyOnBlockAndKey : Obligations.BlockResultsDependOnlyOnBlockAndKey := by
  intro s s' t t' op rnd rnd' hop hk hk' ht ht' hq hq' hdin hnorm hs hs'
  obtain ⟨henc, hdec⟩ := encAndDecCompleteWithTheCipherOfDin rnd s hk ht
  obtain ⟨henc', hdec'⟩ := encAndDecCompleteWithTheCipherOfDin rnd' s' hk' ht'
  rw [step_pending ht hq] at hs
  rw [step_pending ht' hq'] at hs'
  rcases hop with rfl | rfl
  · cases henc.symm.trans hs
    cases henc'.symm.trans hs'
    simp [hdin, hnorm]
  · cases hdec.symm.trans hs
    cases hdec'.symm.trans hs'
    simp [hdin, hnorm]

/-! ### Completion (R181) -/

/-- A legal pending pair completes. -/
theorem step_legal_pending {s : State} {op rnd : BitVec 4} (hc : commandPair op rnd = true) (ht : s.turn = .core)
    (hq : s.seq = .busy op rnd) : step s = .next ((effect (instrOfFields op rnd) s).finish op) := by
  rw [step_pending ht hq, exec_core ht ((completes_instrOfFields op rnd).trans hc), op_instrOfFields]

@[simp] theorem effect_program (i : Instr) (s : State) : (effect i s).program = s.program := by rw [effect_eq]

@[simp] theorem effect_trace (i : Instr) (s : State) : (effect i s).trace = s.trace := by rw [effect_eq]

/-- A completion shows in STATUS, DOUT and RKDATA only. -/
theorem readReg_finish_effect (i : Instr) (op : BitVec 4) (s : State) {r : Reg} (hstatus : r ≠ .status)
    (hdout : ∀ k, r ≠ .dout k) (hrkdata : r ≠ .rkdata) : ((effect i s).finish op).readReg r = s.readReg r := by
  rw [effect_eq]
  cases r
  case status => exact absurd rfl hstatus
  case dout k => exact absurd rfl (hdout k)
  case rkdata => exact absurd rfl hrkdata
  all_goals rfl

/-- Settles O14: a legal pending command has a completion, which touches results and status alone. -/
theorem completionEndsTheCommandAndRecordsNoError : Obligations.CompletionEndsTheCommandAndRecordsNoError := by
  intro s op rnd hl ht hq
  obtain ⟨hc, -, -⟩ := (sequencerLegal_busy_iff hq).1 hl
  refine ⟨_, step_legal_pending hc ht hq, rfl, rfl, rfl, effect_err _ s, effect_errCode _ s, effect_program _ s,
    effect_trace _ s, fun r => readReg_finish_effect _ op s⟩

/-- Settles O32: a step faults only on a pending pair that the invariant excludes. -/
theorem noStepOfALegalStateFaults : Obligations.NoStepOfALegalStateFaults := by
  rintro s ⟨-, -, -, -, hl⟩ f hf
  obtain ⟨op, rnd, hq, hc⟩ := step_fault hf
  obtain ⟨hc', -, -⟩ := (sequencerLegal_busy_iff hq).1 hl
  simp [hc] at hc'

end Sys2Proof.Machine
end

section
/-! ### The round controller (42_block_cipher.md R171, R174, R175)

A round begins with SubBytes and ShiftRows (or their inverses) and ends with a key addition, so a round of decryption undoes
one of encryption between two such half rounds, and likewise the other way round. The rounds are undone last first. -/

namespace Sys2Proof.Machine

/-- If `g` undoes `f` behind `h`, a sequence of `f` is undone behind `h` by the `g` in the opposite order. -/
theorem foldl_reverse_undoes {α β : Type} {f g : α → β → α} {h : α → α} (hu : ∀ a n, g (h (f a n)) n = h a)
    (ns : List β) (a : α) : ns.reverse.foldl g (h (ns.foldl f a)) = h a := by
  induction ns generalizing a with
  | nil => rfl
  | cons n ns ih => rw [List.foldl_cons, List.reverse_cons, List.foldl_append, ih, List.foldl_cons, hu, List.foldl_nil]

theorem decRound_encRound (rk : Schedule) (s : Block) (n : Fin 11) :
    decRound rk (shiftRows (subBytes (encRound rk s n))) n = shiftRows (subBytes s) := by
  simp [decRound, encRound]

theorem encRound_decRound (rk : Schedule) (s : Block) (n : Fin 11) :
    encRound rk (invSubBytes (invShiftRows (decRound rk s n))) n = invSubBytes (invShiftRows s) := by
  simp [decRound, encRound]

theorem decRounds_encRounds (rk : Schedule) (ns : List (Fin 11)) (s : Block) :
    ns.reverse.foldl (decRound rk) (shiftRows (subBytes (ns.foldl (encRound rk) s))) = shiftRows (subBytes s) :=
  foldl_reverse_undoes (h := fun s => shiftRows (subBytes s)) (decRound_encRound rk) ns s

theorem encRounds_decRounds (rk : Schedule) (ns : List (Fin 11)) (s : Block) :
    ns.foldl (encRound rk) (invSubBytes (invShiftRows (ns.reverse.foldl (decRound rk) s))) =
      invSubBytes (invShiftRows s) := by
  simpa using
    foldl_reverse_undoes (h := fun s => invSubBytes (invShiftRows s)) (encRound_decRound rk) ns.reverse s

/-- The rounds with a MixColumns (R171); decryption takes them in the opposite order (R174). -/
def middleRounds : List (Fin 11) := [1, 2, 3, 4, 5, 6, 7, 8, 9]

theorem encryptBlock_eq (b : Block) (rk : Schedule) : encryptBlock b rk =
    addRoundKey (shiftRows (subBytes (middleRounds.foldl (encRound rk) (addRoundKey b rk 0)))) rk 10 := rfl

theorem decryptBlock_eq (b : Block) (rk : Schedule) : decryptBlock b rk =
    addRoundKey (invSubBytes (invShiftRows (middleRounds.reverse.foldl (decRound rk) (addRoundKey b rk 10)))) rk 0 := rfl

theorem decryptBlock_encryptBlock (b : Block) (rk : Schedule) : decryptBlock (encryptBlock b rk) rk = b := by
  rw [decryptBlock_eq, encryptBlock_eq, addRoundKey_addRoundKey, decRounds_encRounds, invShiftRows_shiftRows,
    invSubBytes_subBytes, addRoundKey_addRoundKey]

theorem encryptBlock_decryptBlock (b : Block) (rk : Schedule) : encryptBlock (decryptBlock b rk) rk = b := by
  rw [encryptBlock_eq, decryptBlock_eq, addRoundKey_addRoundKey, encRounds_decRounds, subBytes_invSubBytes,
    shiftRows_invShiftRows, addRoundKey_addRoundKey]

/-- Settles O47: the outer key additions and the half rounds at both ends undo each other as the rounds do. -/
theorem decryptUndoesEncrypt : Obligations.DecryptUndoesEncrypt := fun b rk =>
  ⟨decryptBlock_encryptBlock b rk, encryptBlock_decryptBlock b rk⟩

end Sys2Proof.Machine
end

section
/-! ### Runs of a host program (30_encoding.md R94, 20_memory.md R72)

A command of the host program is one run: its acceptance, then WAIT while the command is in flight, however long, then its
completion and the rest of the program. What a completion reads and writes besides the command in flight is the
datapath, which nothing else in such a run touches. -/

namespace Sys2Proof.Machine

/-! ### Runs -/

/-- Some number of steps leads from `s` to `t`. -/
def Reaches (s t : State) : Prop := ∃ n, Sys2Proof.core.run n s = .next t

theorem Reaches.refl (s : State) : Reaches s s := ⟨0, rfl⟩

theorem Reaches.head {s t u : State} (h : step s = .next t) : Reaches t u → Reaches s u
  | ⟨n, hn⟩ => ⟨n + 1, (run_succ_next Sys2Proof.core h).trans hn⟩

theorem Reaches.trans {s t u : State} : Reaches s t → Reaches t u → Reaches s u
  | ⟨n, hn⟩, ⟨m, hm⟩ => ⟨n + m, (run_add Sys2Proof.core hn).trans hm⟩

/-! ### The datapath -/

/-- The registers a completion's effect reads or writes. -/
structure Datapath where
  key : Four Word
  len : BitVec 5
  din : Four Word
  dout : Four Word
  work : Block
  rk : Schedule
  keyValid : Bool

def State.datapath (s : State) : Datapath := ⟨s.key, s.len, s.din, s.dout, s.work, s.rk, s.keyValid⟩

/-- An effect is a function of the datapath. -/
theorem datapath_effect (i : Instr) {s u : State} (h : s.datapath = u.datapath) :
    (effect i s).datapath = (effect i u).datapath := by
  simp only [State.datapath, Datapath.mk.injEq] at h
  obtain ⟨hkey, hlen, hdin, hdout, hwork, hrk, hkv⟩ := h
  cases i
  case ark rnd =>
    by_cases hr : rnd.toNat ≤ 10 <;> simp [effect, arkEffect, State.datapath, *]
  all_goals simp [effect, encEffect, decEffect, State.datapath, *]

/-! ### WAIT -/

/-- Observations of STATUS alone, as WAIT makes them. -/
def StatusReads (os : List Obs) : Prop := ∀ o ∈ os, ∃ v, o = .read statusOffset v

/-- What the host finds in `t`, with `rest` still to do, when the command `i` of `s` has completed under its WAIT. -/
structure AfterCommand (i : Instr) (rest : List HostOp) (s t : State) : Prop where
  idle : t.busy = false
  program : t.program = rest
  datapath : t.datapath = (effect i s).datapath
  trace : ∃ os, t.trace = os ++ s.trace ∧ StatusReads os

/-- Between `s` and `u` the host only looked at STATUS, or started the command. -/
theorem AfterCommand.of_looked {i : Instr} {rest : List HostOp} {s u t : State} {os : List Obs}
    (h : AfterCommand i rest u t) (hd : u.datapath = s.datapath) (htr : u.trace = os ++ s.trace)
    (hos : StatusReads os) : AfterCommand i rest s t := by
  obtain ⟨os', htr', hos'⟩ := h.trace
  refine ⟨h.idle, h.program, h.datapath.trans (datapath_effect i hd), os' ++ os, ?_, ?_⟩
  · rw [htr', htr, List.append_assoc]
  · exact fun o ho => (List.mem_append.1 ho).elim (hos' o) (hos o)

theorem statusReads_singleton (v : Word) : StatusReads [.read statusOffset v] := fun _ ho =>
  ⟨v, List.mem_singleton.1 ho⟩

section
variable {s : State} {rest : List HostOp} (hp : s.program = .wait :: rest)
include hp

theorem step_wait_idle (hb : s.busy = false) :
    step s = .next { s with program := rest, trace := .read statusOffset s.statusWord :: s.trace } := by
  have h := (waitAndIrqOperationsOfTheHost s rest (turn_host_of_not_busy hb)).1 hp
  rwa [hb] at h

theorem step_wait_busy (ht : s.turn = .host) (hb : s.busy = true) :
    step s = .next { s with program := .wait :: rest, trace := .read statusOffset s.statusWord :: s.trace,
                            wait := s.wait - 1 } := by
  have h := (waitAndIrqOperationsOfTheHost s rest ht).1 hp
  rwa [hb] at h

/-- At the core's turn the command completes, and WAIT finds the core idle. -/
theorem reaches_afterCommand_of_due {op rnd : BitVec 4} (hc : commandPair op rnd = true) (hq : s.seq = .busy op rnd)
    (hw : s.wait = 0) : ∃ t, Reaches s t ∧ AfterCommand (instrOfFields op rnd) rest s t := by
  have hdone := step_legal_pending hc (turn_core_iff.2 ⟨hw, op, rnd, hq⟩) hq
  have hlook := step_wait_idle (s := (effect (instrOfFields op rnd) s).finish op) (by simpa using hp) rfl
  exact ⟨_, .head hdone (.head hlook (.refl _)), rfl, rfl, rfl, [_], congrArg (_ :: ·) (effect_trace _ s),
    statusReads_singleton _⟩

/-- WAIT outlasts the command in flight, however long it takes. -/
theorem reaches_afterCommand_of_wait {op rnd : BitVec 4} (hc : commandPair op rnd = true) (hq : s.seq = .busy op rnd) :
    ∃ t, Reaches s t ∧ AfterCommand (instrOfFields op rnd) rest s t := by
  induction hw : s.wait generalizing s with
  | zero => exact reaches_afterCommand_of_due hp hc hq hw
  | succ w ih =>
    have hlook := step_wait_busy hp (by simp [State.turn, hq, hw]) (busy_eq_true_iff.2 ⟨op, rnd, hq⟩)
    obtain ⟨t, hr, ht⟩ := ih (s := { s with program := .wait :: rest, trace := _ :: s.trace, wait := s.wait - 1 })
      rfl hq (by simp [hw])
    exact ⟨t, .head hlook hr, ht.of_looked (os := [_]) rfl rfl (statusReads_singleton _)⟩

end

/-! ### A command -/

/-- `CMD i` while idle accepts `i`. -/
theorem step_cmd {i : Instr} (hw : i.wf = true) (hi : completes i = true) {s : State} {rest : List HostOp}
    (hb : s.busy = false) (hp : s.program = cmd i :: rest) :
    step s = .next ((s.withProgram rest).accept i.op i.round) := by
  have hrun := step_ctrlWrite (turn_host_of_not_busy hb) hp rfl (by decide)
  rw [decodeOfEncodeIsTheInstruction i hw, exec_idle i (s := s.withProgram rest) hb,
    writeEffect_of_completes _ hi, hb] at hrun
  exact hrun

/-- `CMD i; WAIT` while idle: `i` is accepted and completes. -/
theorem reaches_afterCommand {i : Instr} (hw : i.wf = true) (hi : completes i = true) {s : State}
    {rest : List HostOp} (hb : s.busy = false) (hp : s.program = [cmd i, .wait] ++ rest) :
    ∃ t, Reaches s t ∧ AfterCommand i rest s t := by
  obtain ⟨t, hr, ht⟩ := reaches_afterCommand_of_wait (s := (s.withProgram (.wait :: rest)).accept i.op i.round) rfl
    ((completes_iff_pair hw).symm.trans hi) rfl
  rw [instrOfFields_op_round hw] at ht
  exact ⟨t, .head (step_cmd hw hi hb hp) hr, ht.of_looked (os := []) rfl rfl (by simp [StatusReads])⟩

/-! ### RDOUT -/

/-- Reads while idle observe the registers as they stand, the latest first. -/
theorem reaches_of_reads {s : State} (offs : List (BitVec 8)) {rest : List HostOp} (hb : s.busy = false)
    (hp : s.program = offs.map hostR ++ rest) :
    Reaches s { s with program := rest,
                       trace := (offs.map fun off => .read off (s.readOff off)).reverse ++ s.trace } := by
  induction offs generalizing s with
  | nil =>
    cases hp
    exact .refl s
  | cons off offs ih =>
    refine .head (step_idle_read hb hp) ?_
    rw [List.map_cons, List.reverse_cons, List.append_assoc]
    exact ih hb rfl

/-- RDOUT while idle observes the four words of DOUT (R94). -/
theorem reaches_of_rdout {s : State} {rest : List HostOp} (hb : s.busy = false) (hp : s.program = rdout ++ rest) :
    Reaches s { s with program := rest,
                       trace := [.read 0x3C s.dout.x3, .read 0x38 s.dout.x2, .read 0x34 s.dout.x1,
                                 .read 0x30 s.dout.x0] ++ s.trace } :=
  reaches_of_reads [0x30, 0x34, 0x38, 0x3C] hb hp

/-- Settles O44: ENC completes under WAIT with the cipher in DOUT, and RDOUT reads it. -/
theorem hostReadsTheCipherAfterWait : Obligations.HostReadsTheCipherAfterWait := by
  intro s rest hk hb hp D
  obtain ⟨t, hr, ht⟩ := reaches_afterCommand (i := .enc 0) rfl rfl hb hp
  have hdout : t.dout = D := by
    have hd : t.dout = (encEffect s).dout := congrArg Datapath.dout ht.datapath
    rw [hd, encEffect_eq hk]
    rfl
  obtain ⟨n, hn⟩ := hr.trans (reaches_of_rdout ht.idle ht.program)
  exact ⟨n, _, hn, rfl, ht.idle, by simp [hdout]⟩

end Sys2Proof.Machine
end

section
/-! ### Byte sequences and their blocks (43_host_message_codec.md R203, R205, R206)

A sequence of whole blocks is cut into exactly those blocks, so the codec is one function of a block applied to each, and
two of them in a row compose. -/

namespace Sys2Proof.Machine

/-! ### Blocks -/

@[simp] theorem length_bytes (b : Block) : b.bytes.length = 16 := rfl

/-- Byte `r + 4c` of a block's sequence is `s[r][c]` (00_scope.md R11). -/
theorem getD_bytes (b : Block) (r c : Fin 4) : b.bytes.getD (r.val + 4 * c.val) 0x00 = b.at' r c := by
  fin_cases c <;> fin_cases r <;> rfl

theorem blockAt_zero_bytes_append (b : Block) (P : List Byte) : blockAt (b.bytes ++ P) 0 = b := by
  refine Block.ext_at fun r c => ?_
  rw [blockAt, Block.at_ofRC, Nat.mul_zero, Nat.zero_add, List.getD_append _ _ _ _ (by rw [length_bytes]; omega),
    getD_bytes]

theorem blockAt_succ_bytes_append (b : Block) (P : List Byte) (i : Nat) :
    blockAt (b.bytes ++ P) (i + 1) = blockAt P i := by
  refine Block.ext_at fun r c => ?_
  rw [blockAt, blockAt, Block.at_ofRC, Block.at_ofRC,
    List.getD_append_right _ _ _ _ (by rw [length_bytes]; omega), length_bytes]
  congr 1
  omega

@[simp] theorem blocksOf_bytes_append (b : Block) (P : List Byte) : blocksOf (b.bytes ++ P) = b :: blocksOf P := by
  have hlen : (b.bytes ++ P).length / 16 = P.length / 16 + 1 := by
    rw [List.length_append, length_bytes]
    omega
  rw [blocksOf, hlen, List.range_succ_eq_map, List.map_cons, List.map_map, blockAt_zero_bytes_append]
  exact congrArg (b :: ·) (List.map_congr_left fun i _ => blockAt_succ_bytes_append b P i)

@[simp] theorem blocksOf_flatMap_bytes (bs : List Block) : blocksOf (bs.flatMap Block.bytes) = bs := by
  induction bs with
  | nil => rfl
  | cons b bs ih => rw [List.flatMap_cons, blocksOf_bytes_append, ih]

@[simp] theorem length_blocksOf (P : List Byte) : (blocksOf P).length = P.length / 16 := by simp [blocksOf]

theorem bytes_blockAt_zero {P : List Byte} (h : 16 ≤ P.length) : (blockAt P 0).bytes = P.take 16 := by
  have hb : (blockAt P 0).bytes = (List.range 16).map (P.getD · 0x00) := rfl
  refine hb.trans (List.ext_getElem (by simp [h]) fun j hj _ => ?_)
  rw [List.length_map, List.length_range] at hj
  rw [List.getElem_map, List.getElem_range, List.getD_eq_getElem _ _ (by omega), List.getElem_take]

/-- A sequence of whole blocks is the bytes of its blocks. -/
theorem flatMap_bytes_blocksOf {P : List Byte} (h : P.length % 16 = 0) : (blocksOf P).flatMap Block.bytes = P := by
  induction hn : P.length / 16 generalizing P with
  | zero =>
    obtain rfl : P = [] := List.length_eq_zero_iff.1 (by omega)
    rfl
  | succ n ih =>
    have hP : P = (blockAt P 0).bytes ++ P.drop 16 := by rw [bytes_blockAt_zero (by omega), List.take_append_drop]
    have hrest := ih (P := P.drop 16) (by rw [List.length_drop]; omega) (by rw [List.length_drop]; omega)
    rw [hP, blocksOf_bytes_append, List.flatMap_cons, hrest]

/-! ### A function of each block -/

/-- `f` of each block of a byte sequence, as bytes (R205, R207). -/
def blockwise (f : Block → Block) (P : List Byte) : List Byte := (blocksOf P).flatMap fun b => (f b).bytes

theorem blockwise_eq (f : Block → Block) (P : List Byte) :
    blockwise f P = ((blocksOf P).map f).flatMap Block.bytes := by
  rw [blockwise, List.flatMap_map]

@[simp] theorem length_blockwise (f : Block → Block) (P : List Byte) :
    (blockwise f P).length = 16 * (P.length / 16) := by
  simp [blockwise, List.length_flatMap, Nat.mul_comm]

theorem blockwise_blockwise (f g : Block → Block) (P : List Byte) :
    blockwise g (blockwise f P) = blockwise (fun b => g (f b)) P := by
  rw [blockwise_eq f, blockwise, blocksOf_flatMap_bytes, List.flatMap_map, blockwise]

theorem encryptMessage_eq (m kb : List Byte) :
    encryptMessage m kb = blockwise (encryptBlock · (keySchedule kb)) (padMessage m) := rfl

theorem decryptBytes_of_lengthOk {C : List Byte} (kb : List Byte) (h : lengthOk C = true) :
    decryptBytes C kb = unpad (blockwise (decryptBlock · (keySchedule kb)) C) := if_pos h

/-! ### Padding (R203, R206) -/

theorem padLength_range (L : Nat) : 1 ≤ padLength L ∧ padLength L ≤ 16 := by
  unfold padLength
  omega

@[simp] theorem length_padMessage (m : List Byte) : (padMessage m).length = 16 * (m.length / 16 + 1) := by
  rw [padMessage, List.length_append, List.length_replicate, padLength]
  omega

theorem length_encryptMessage (m kb : List Byte) : (encryptMessage m kb).length = 16 * (m.length / 16 + 1) := by
  rw [encryptMessage_eq, length_blockwise, length_padMessage, Nat.mul_div_cancel_left _ (by decide)]

/-- Settles O56: the cipher keeps the number of blocks of the padded message. -/
theorem ciphertextLength : Obligations.CiphertextLength := by
  intro m kb
  obtain ⟨hlow, hhigh⟩ := padLength_range m.length
  exact ⟨hlow, hhigh, by rw [length_padMessage, Nat.mul_mod_right], length_encryptMessage m kb⟩

end Sys2Proof.Machine
end

section
/-! ### The message codec as a function (43_host_message_codec.md R207 to R212)

Un-padding undoes padding, the block functions undo each other block by block, and the lossy decoding of a UTF-8
encoding meets well-formed characters only. -/

namespace Sys2Proof.Machine

theorem toNat_ofNat_byte {n : Nat} (h : n < 0x100) : (BitVec.ofNat 8 n).toNat = n := by
  rw [BitVec.toNat_ofNat, Nat.mod_eq_of_lt h]

/-! ### Un-padding (R207, R209) -/

/-- The last byte of a padded message is the pad length (R203). -/
theorem toNat_lastByte_padMessage (m : List Byte) :
    ((padMessage m).getD ((padMessage m).length - 1) 0x00).toNat = padLength m.length := by
  obtain ⟨hlow, hhigh⟩ := padLength_range m.length
  have hlen : (padMessage m).length = m.length + padLength m.length := by simp [padMessage]
  rw [hlen, padMessage, List.getD_append_right _ _ _ _ (by omega), List.getD_replicate _ (by omega),
    toNat_ofNat_byte (by omega)]

@[simp] theorem unpad_padMessage (m : List Byte) : unpad (padMessage m) = .ok m := by
  obtain ⟨hlow, hhigh⟩ := padLength_range m.length
  rw [unpad, toNat_lastByte_padMessage, if_neg (by omega)]
  simp [padMessage]

/-- Un-padding fails by the last byte alone, and with no other reason (R209, R211). -/
theorem unpad_cases (P : List Byte) :
    (((P.getD (P.length - 1) 0x00).toNat = 0 ∨ 16 < (P.getD (P.length - 1) 0x00).toNat) ∧
      unpad P = .fail .badPadding) ∨
    (¬((P.getD (P.length - 1) 0x00).toNat = 0 ∨ 16 < (P.getD (P.length - 1) 0x00).toNat) ∧
      ∃ m, unpad P = .ok m) := by
  simp only [unpad, Nat.lt_one_iff]
  split
  · exact .inl ⟨‹_›, rfl⟩
  · exact .inr ⟨‹_›, _, rfl⟩

/-! ### The length of a ciphertext (R208) -/

theorem lengthOk_iff (C : List Byte) : lengthOk C = true ↔ C.length ≠ 0 ∧ C.length % 16 = 0 := by
  simp [lengthOk]

theorem lengthOk_encryptMessage (m kb : List Byte) : lengthOk (encryptMessage m kb) = true := by
  rw [lengthOk_iff, length_encryptMessage]
  omega

/-! ### The round trip (R212) -/

theorem blockwise_id {P : List Byte} (h : P.length % 16 = 0) : blockwise (fun b => b) P = P :=
  flatMap_bytes_blocksOf h

/-- Decoding undoes encoding before text decoding. -/
theorem decryptBytes_encryptMessage (m kb : List Byte) : decryptBytes (encryptMessage m kb) kb = .ok m := by
  have hpad : (padMessage m).length % 16 = 0 := by rw [length_padMessage, Nat.mul_mod_right]
  rw [decryptBytes_of_lengthOk kb (lengthOk_encryptMessage m kb), encryptMessage_eq, blockwise_blockwise]
  simp only [decryptBlock_encryptBlock]
  rw [blockwise_id hpad, unpad_padMessage]

/-! ### UTF-8 of one character (log entry 11) -/

/-- A continuation byte carries its six bits. -/
theorem continuation_ofNat (n : Nat) : continuation (BitVec.ofNat 8 (0x80 + n % 64)) = some (n % 64) := by
  have hb : (BitVec.ofNat 8 (0x80 + n % 64)).toNat = 0x80 + n % 64 := toNat_ofNat_byte (by omega)
  rw [continuation, hb, if_pos (by omega), Nat.add_sub_cancel_left]

theorem charOf_of_eq_toNat {least n : Nat} {c : Char} (hn : n = c.toNat) (h : least ≤ c.toNat) :
    charOf least n = some c := by
  rw [hn, charOf, if_pos ⟨h, c.valid⟩, Char.ofNat_toNat]

theorem toNat_lt_of_char (c : Char) : c.toNat < 0x110000 := by
  have h : c.toNat.isValidChar := c.valid
  unfold Nat.isValidChar at h
  omega

section
variable {b0 b1 b2 b3 : Byte} {rest : List Byte} {c1 c2 c3 : Nat} {c : Char}

theorem utf8Head_oneByte (h0 : b0.toNat < 0x80) (hn : b0.toNat = c.toNat) : utf8Head (b0 :: rest) = some (c, rest) :=
  (if_pos h0).trans (by rw [hn, Char.ofNat_toNat])

theorem utf8Head_twoBytes (h0 : 0xC0 ≤ b0.toNat ∧ b0.toNat < 0xE0) (h1 : continuation b1 = some c1)
    (hn : (b0.toNat - 0xC0) * 64 + c1 = c.toNat) (hc : 0x80 ≤ c.toNat) :
    utf8Head (b0 :: b1 :: rest) = some (c, rest) := by
  rw [utf8Head, if_neg (by omega), if_pos h0]
  exact Option.bind_eq_some_iff.2 ⟨c1, h1, Option.bind_eq_some_iff.2 ⟨c, charOf_of_eq_toNat hn hc, rfl⟩⟩

theorem utf8Head_threeBytes (h0 : 0xE0 ≤ b0.toNat ∧ b0.toNat < 0xF0) (h1 : continuation b1 = some c1)
    (h2 : continuation b2 = some c2) (hn : (b0.toNat - 0xE0) * 4096 + c1 * 64 + c2 = c.toNat) (hc : 0x800 ≤ c.toNat) :
    utf8Head (b0 :: b1 :: b2 :: rest) = some (c, rest) := by
  rw [utf8Head, if_neg (by omega), if_neg (by omega), if_pos h0]
  exact Option.bind_eq_some_iff.2 ⟨c1, h1, Option.bind_eq_some_iff.2 ⟨c2, h2,
    Option.bind_eq_some_iff.2 ⟨c, charOf_of_eq_toNat hn hc, rfl⟩⟩⟩

theorem utf8Head_fourBytes (h0 : 0xF0 ≤ b0.toNat ∧ b0.toNat < 0xF8) (h1 : continuation b1 = some c1)
    (h2 : continuation b2 = some c2) (h3 : continuation b3 = some c3)
    (hn : (b0.toNat - 0xF0) * 262144 + c1 * 4096 + c2 * 64 + c3 = c.toNat) (hc : 0x10000 ≤ c.toNat) :
    utf8Head (b0 :: b1 :: b2 :: b3 :: rest) = some (c, rest) := by
  rw [utf8Head, if_neg (by omega), if_neg (by omega), if_neg (by omega), if_pos h0]
  exact Option.bind_eq_some_iff.2 ⟨c1, h1, Option.bind_eq_some_iff.2 ⟨c2, h2, Option.bind_eq_some_iff.2 ⟨c3, h3,
    Option.bind_eq_some_iff.2 ⟨c, charOf_of_eq_toNat hn hc, rfl⟩⟩⟩⟩

end

/-- The encoding of a character is well-formed, and it is that character's. -/
theorem utf8Head_utf8Char_append (c : Char) (rest : List Byte) : utf8Head (utf8Char c ++ rest) = some (c, rest) := by
  have hmax := toNat_lt_of_char c
  rw [utf8Char]
  split_ifs with h1 h2 h3
  · have hlead : (BitVec.ofNat 8 c.toNat).toNat = c.toNat := toNat_ofNat_byte (by omega)
    exact utf8Head_oneByte (by omega) hlead
  · have hlead : (BitVec.ofNat 8 (0xC0 + c.toNat / 64)).toNat = 0xC0 + c.toNat / 64 := toNat_ofNat_byte (by omega)
    exact utf8Head_twoBytes (by omega) (continuation_ofNat _) (by omega) (by omega)
  · have hlead : (BitVec.ofNat 8 (0xE0 + c.toNat / 4096)).toNat = 0xE0 + c.toNat / 4096 := toNat_ofNat_byte (by omega)
    exact utf8Head_threeBytes (by omega) (continuation_ofNat _) (continuation_ofNat _) (by omega) (by omega)
  · have hlead : (BitVec.ofNat 8 (0xF0 + c.toNat / 262144)).toNat = 0xF0 + c.toNat / 262144 :=
      toNat_ofNat_byte (by omega)
    exact utf8Head_fourBytes (by omega) (continuation_ofNat _) (continuation_ofNat _) (continuation_ofNat _) (by omega)
      (by omega)

/-! ### Lossy decoding (R210) -/

/-- A well-formed character is kept. -/
theorem textDecode_of_char (p : TextPolicy) {bs rest : List Byte} {c : Char} (h : utf8Head bs = some (c, rest)) :
    textDecode p bs = c :: textDecode p rest := by
  have hlen := utf8Head_length h
  cases bs with
  | nil => cases h
  | cons b bs =>
    rw [List.length_cons] at hlen
    rw [textDecode, List.length_cons, decodeUpTo, h]
    exact congrArg (c :: ·) (decodeUpTo_eq p (by omega))

/-- An invalid sequence gives its substitute. -/
theorem textDecode_of_invalid (p : TextPolicy) {b : Byte} {bs : List Byte} (h : utf8Head (b :: bs) = none) :
    textDecode p (b :: bs) = invalidText p ++ textDecode p ((b :: bs).drop (invalidLength (b :: bs))) := by
  obtain ⟨hlow, -⟩ := invalidLength_bounds h
  rw [textDecode, List.length_cons, decodeUpTo, h]
  refine congrArg (invalidText p ++ ·) (decodeUpTo_eq p ?_)
  rw [List.length_drop, List.length_cons]
  omega

theorem textDecode_utf8 (p : TextPolicy) (text : List Char) : textDecode p (utf8 text) = text := by
  induction text with
  | nil => rfl
  | cons c text ih =>
    have happ : utf8 (c :: text) = utf8Char c ++ utf8 text := List.flatMap_cons
    rw [happ, textDecode_of_char p (utf8Head_utf8Char_append c (utf8 text)), ih]

/-- Settles O59: the bytes come back whole, and as the encoding of a text they decode to it. -/
theorem messageRoundTrip : Obligations.MessageRoundTrip := by
  refine ⟨decryptBytes_encryptMessage, fun p text kb => ?_⟩
  rw [decryptMessage, decryptBytes_encryptMessage]
  exact congrArg CodecResult.ok (textDecode_utf8 p text)

/-- Past some bytes of a run, the rest of the run is left. -/
theorem invalidRun_drop {bs : List Byte} {k : Nat} (h : k ≤ invalidRun bs) :
    invalidRun (bs.drop k) = invalidRun bs - k := by
  induction k generalizing bs with
  | zero => rfl
  | succ k ih =>
    have hnone : utf8Head (bs.drop 0) = none := utf8Head_drop_of_lt_run (by omega)
    cases bs with
    | nil => cases h
    | cons b bs =>
      rw [List.drop_zero] at hnone
      rw [invalidRun_cons hnone] at h ⊢
      rw [List.drop_succ_cons, ih (by omega), Nat.add_sub_add_right]

/-- Under `ignore` a run of bytes at which no character begins is dropped whole, however it divides into sequences. -/
theorem textDecode_ignore_drop_invalidRun (bs : List Byte) :
    textDecode .ignore (bs.drop (invalidRun bs)) = textDecode .ignore bs := by
  induction hn : bs.length using Nat.strong_induction_on generalizing bs with
  | _ n ih =>
    cases bs with
    | nil => rfl
    | cons b bs =>
      cases hh : utf8Head (b :: bs) with
      | some cr => simp [invalidRun, hh]
      | none =>
        obtain ⟨hlow, hrun⟩ := invalidLength_bounds hh
        have hshort : ((b :: bs).drop (invalidLength (b :: bs))).length < n := by
          rw [← hn, List.length_drop, List.length_cons]
          omega
        have hrest := ih _ hshort _ rfl
        rw [invalidRun_drop hrun, List.drop_drop, Nat.add_sub_cancel' hrun] at hrest
        rw [hrest, textDecode_of_invalid .ignore hh]
        rfl

theorem textDecode_ignore_of_invalid {b : Byte} {bs : List Byte} (h : utf8Head (b :: bs) = none) :
    textDecode .ignore (b :: bs) = textDecode .ignore bs := by
  rw [← textDecode_ignore_drop_invalidRun, invalidRun_cons h, List.drop_succ_cons, textDecode_ignore_drop_invalidRun]

/-! ### Failures (R208, R209, R211) -/

theorem decryptMessage_of_bad_length (p : TextPolicy) {C : List Byte} (kb : List Byte)
    (h : C.length = 0 ∨ C.length % 16 ≠ 0) :
    decryptMessage p C kb = .fail .malformedLength ∧ decryptProgram C kb = [] := by
  have hbad : lengthOk C ≠ true := by
    rw [ne_eq, lengthOk_iff]
    omega
  exact ⟨by rw [decryptMessage, decryptBytes, if_neg hbad], if_neg hbad⟩

theorem decryptMessage_of_lengthOk (p : TextPolicy) {C : List Byte} (kb : List Byte) (h : lengthOk C = true) :
    decryptMessage p C kb = .fail .badPadding ∨ ∃ text, decryptMessage p C kb = .ok text := by
  rw [decryptMessage, decryptBytes_of_lengthOk kb h]
  rcases unpad_cases (blockwise (decryptBlock · (keySchedule kb)) C) with ⟨-, hu⟩ | ⟨-, m, hu⟩ <;> rw [hu]
  · exact .inl rfl
  · exact .inr ⟨_, rfl⟩

/-- Settles O60: `unpad_cases` for the failures; an invalid sequence takes in `invalidLength` bytes of its run. -/
theorem codecFailuresAndLossyText : Obligations.CodecFailuresAndLossyText := by
  refine ⟨fun p _ kb => decryptMessage_of_bad_length p kb, fun P => ?padding,
    fun p _ kb => decryptMessage_of_lengthOk p kb, fun p _ _ _ => textDecode_of_char p,
    fun _ _ => textDecode_ignore_of_invalid, fun p b bs h => ?invalid⟩
  case padding =>
    rcases unpad_cases P with ⟨hp, hu⟩ | ⟨hp, m, hu⟩
    · exact ⟨iff_of_true hu hp, by simp [hu]⟩
    · exact ⟨iff_of_false (by simp [hu]) hp, by simp [hu]⟩
  case invalid =>
    obtain ⟨hlow, hrun⟩ := invalidLength_bounds h
    exact ⟨_, hlow, hrun.trans (invalidRun_le_length _),
      fun j hj => utf8Head_drop_of_lt_run (Nat.lt_of_lt_of_le hj hrun), textDecode_of_invalid p h⟩

end Sys2Proof.Machine
end

section
/-! ### The codec's host programs (43_host_message_codec.md R200, R205, R207)

Between two blocks the core is idle and holds the provisioned key. Under that invariant a block program is one run:
WRDIN, the command under its WAIT, and RDOUT of the result. So the whole program reads the blocks' results in order. -/

namespace Sys2Proof.Machine

/-! ### WRDIN and WRKEY (30_encoding.md R94) -/

section
variable {s : State} {rest : List HostOp} (hb : s.busy = false) {off : BitVec 8} {k : Fin 4} {v : Word}
include hb

theorem step_din (hoff : regOf off = .din k) (hp : s.program = hostW off v :: rest) :
    step s = .next { s with program := rest, din := s.din.set k v } := by
  rw [step_idle_write hb hp, hoff, written, State.writeDin, busy_withProgram, hb]
  rfl

theorem step_key (hoff : regOf off = .key k) (hp : s.program = hostW off v :: rest) :
    step s = .next { s with program := rest, key := s.key.set k v, keyValid := false } := by
  rw [step_idle_write hb hp, hoff, written, State.writeKey, busy_withProgram, hb]
  rfl

theorem step_keylen (hoff : regOf off = .keylen) (hp : s.program = hostW off v :: rest) :
    step s = .next { s with program := rest, len := v.extractLsb' 0 5, keyValid := false } := by
  rw [step_idle_write hb hp, hoff, written, State.writeKeylen, busy_withProgram, hb]
  rfl

theorem reaches_of_wrdin {d : Four Word} (hp : s.program = wrdin d ++ rest) :
    Reaches s { s with program := rest, din := d } := by
  refine .head (step_din hb (k := 0) rfl hp) ?_
  refine .head (step_din (by exact hb) (k := 1) rfl rfl) ?_
  refine .head (step_din (by exact hb) (k := 2) rfl rfl) ?_
  exact .head (step_din (by exact hb) (k := 3) rfl rfl) (.refl _)

theorem reaches_of_wrkey {key : Four Word} (hp : s.program = wrkey key v ++ rest) :
    Reaches s { s with program := rest, key := key, len := v.extractLsb' 0 5, keyValid := false } := by
  refine .head (step_key hb (k := 0) rfl hp) ?_
  refine .head (step_key (by exact hb) (k := 1) rfl rfl) ?_
  refine .head (step_key (by exact hb) (k := 2) rfl rfl) ?_
  refine .head (step_key (by exact hb) (k := 3) rfl rfl) ?_
  exact .head (step_keylen (by exact hb) rfl rfl) (.refl _)

end

/-! ### Key provisioning (R200) -/

/-- Between two blocks: the core is idle and holds the key `kb`, expanded or not. -/
structure Provisioned (kb : List Byte) (s : State) : Prop where
  idle : s.busy = false
  key : s.key = keyWords kb
  len : s.len = BitVec.ofNat 5 (min kb.length 16)
  cache : KeyCacheCurrent s

/-- KEYLEN keeps the five low bits, which hold `min(n, 16)` (R201). -/
theorem extractLsb'_ofNat_five (n : Nat) : (BitVec.ofNat 32 n).extractLsb' 0 5 = BitVec.ofNat 5 n := by
  refine BitVec.eq_of_toNat_eq ?_
  simp only [BitVec.extractLsb'_toNat, BitVec.toNat_ofNat]
  omega

/-- Provisioning leaves the key set and its schedule invalid, whatever the core held before. -/
theorem reaches_of_provision {kb : List Byte} {s : State} {rest : List HostOp} (hb : s.busy = false)
    (hp : s.program = provision kb ++ rest) :
    ∃ t, Reaches s t ∧ Provisioned kb t ∧ t.program = rest ∧ t.trace = s.trace :=
  ⟨_, reaches_of_wrkey hb hp, ⟨hb, rfl, extractLsb'_ofNat_five _, fun h => nomatch h⟩, rfl, rfl⟩

/-! ### What the host reads from DOUT -/

/-- The bytes the host has read from DOUT, earliest first. -/
def doutBytes (s : State) : List Byte := wordBytes (doutReads s.trace)

theorem doutReads_append (os tr : List Obs) : doutReads (os ++ tr) = doutReads tr ++ doutReads os := by
  rw [doutReads, List.reverse_append, List.filterMap_append, doutReads, doutReads]

theorem wordBytes_append (ws vs : List Word) : wordBytes (ws ++ vs) = wordBytes ws ++ wordBytes vs :=
  List.flatMap_append

/-- A look at STATUS reads nothing from DOUT. -/
theorem doutReads_of_statusReads {os : List Obs} (h : StatusReads os) : doutReads os = [] := by
  refine List.filterMap_eq_nil_iff.2 fun o ho => ?_
  obtain ⟨v, rfl⟩ := h o (List.mem_reverse.1 ho)
  rfl

/-- RDOUT reads the four words of DOUT, the latest observation first. -/
theorem doutReads_rdout (d : Four Word) :
    doutReads [.read 0x3C d.x3, .read 0x38 d.x2, .read 0x34 d.x1, .read 0x30 d.x0] = d.toList := rfl

/-- The words of a block, unpacked, are its bytes (00_scope.md R12). -/
theorem wordBytes_b2w (b : Block) : wordBytes (b2w b).toList = b.bytes := by
  simp [wordBytes, b2w, Four.map, Four.toList, Block.bytes]

/-! ### One block (R205, R207) -/

/-- ENC or DEC: a command that completes with `f` of DIN, under the current schedule, in DOUT (42_block_cipher.md R182,
R183). -/
structure BlockCommand (i : Instr) (f : Block → Schedule → Block) : Prop where
  wf : i.wf = true
  completes : completes i = true
  effect_eq : ∀ s, KeyCacheCurrent s → effect i s =
    State.storeWork { s with rk := scheduleOf s.key s.len, keyValid := true } (f (w2b s.din) (scheduleOf s.key s.len))

theorem blockCommand_enc : BlockCommand (.enc 0) encryptBlock := ⟨rfl, rfl, fun _ => encEffect_eq⟩

theorem blockCommand_dec : BlockCommand (.dec 0) decryptBlock := ⟨rfl, rfl, fun _ => decEffect_eq⟩

section
variable {i : Instr} {f : Block → Schedule → Block} (hi : BlockCommand i f) {kb : List Byte}
include hi

/-- The completed command has left `f` of DIN in DOUT, and the key stands. -/
theorem provisioned_afterCommand {s t : State} {rest : List HostOp} (hs : Provisioned kb s)
    (ht : AfterCommand i rest s t) : Provisioned kb t ∧ t.dout = b2w (f (w2b s.din) (keySchedule kb)) := by
  have hd := ht.datapath
  rw [hi.effect_eq s hs.cache] at hd
  simp only [State.datapath, State.storeWork, Datapath.mk.injEq] at hd
  obtain ⟨hkey, hlen, -, hdout, -, hrk, -⟩ := hd
  refine ⟨⟨ht.idle, hkey.trans hs.key, hlen.trans hs.len, fun _ => by rw [hrk, hkey, hlen]⟩, ?_⟩
  rw [hdout, hs.key, hs.len, keySchedule]

/-- One block goes through: the host reads `f` of it, and the key stands. -/
theorem reaches_of_blockProgram {s : State} {b : Block} {rest : List HostOp} (hs : Provisioned kb s)
    (hp : s.program = blockProgram i b ++ rest) :
    ∃ t, Reaches s t ∧ Provisioned kb t ∧ t.program = rest ∧
      doutBytes t = doutBytes s ++ (f b (keySchedule kb)).bytes := by
  rw [blockProgram, List.append_assoc, List.append_assoc] at hp
  have hwrite := reaches_of_wrdin hs.idle hp
  have hs' : Provisioned kb { s with program := [cmd i, .wait] ++ (rdout ++ rest), din := b2w b } :=
    ⟨hs.idle, hs.key, hs.len, hs.cache⟩
  obtain ⟨t, hcmd, ht⟩ := reaches_afterCommand hi.wf hi.completes hs'.idle rfl
  obtain ⟨ht', hdout⟩ := provisioned_afterCommand hi hs' ht
  have hread := reaches_of_rdout ht.idle ht.program
  refine ⟨_, hwrite.trans (hcmd.trans hread), ⟨ht'.idle, ht'.key, ht'.len, ht'.cache⟩, rfl, ?_⟩
  obtain ⟨os, htr, hos⟩ := ht.trace
  rw [w2b_b2w] at hdout
  rw [← wordBytes_b2w, ← hdout, doutBytes, doutBytes, doutReads_append, doutReads_rdout, htr, doutReads_append,
    doutReads_of_statusReads hos, List.append_nil, wordBytes_append]

/-- Block after block goes through. -/
theorem reaches_of_blockPrograms {s : State} {bs : List Block} (hs : Provisioned kb s)
    (hp : s.program = bs.flatMap (blockProgram i)) :
    ∃ t, Reaches s t ∧ t.program = [] ∧
      doutBytes t = doutBytes s ++ bs.flatMap fun b => (f b (keySchedule kb)).bytes := by
  induction bs generalizing s with
  | nil => exact ⟨s, .refl s, hp, (List.append_nil _).symm⟩
  | cons b bs ih =>
    obtain ⟨u, hsu, hu, hup, hub⟩ := reaches_of_blockProgram hi hs hp
    obtain ⟨t, hut, htp, htb⟩ := ih hu hup
    exact ⟨t, hsu.trans hut, htp, by rw [htb, hub, List.append_assoc, List.flatMap_cons]⟩

/-- Provisioning and the blocks: from any idle state the host reads `f` of each block. -/
theorem run_of_codecProgram {s : State} {P : List Byte} (hb : s.busy = false) (htr : s.trace = [])
    (hp : s.program = provision kb ++ (blocksOf P).flatMap (blockProgram i)) :
    ∃ n t, Sys2Proof.core.run n s = .next t ∧ t.program = [] ∧
      wordBytes (doutReads t.trace) = blockwise (f · (keySchedule kb)) P := by
  obtain ⟨u, hsu, hu, hup, hut⟩ := reaches_of_provision hb hp
  obtain ⟨t, hut', htp, htb⟩ := reaches_of_blockPrograms hi hu hup
  obtain ⟨n, hn⟩ := hsu.trans hut'
  refine ⟨n, t, hn, htp, ?_⟩
  have hnone : doutBytes u = [] := by rw [doutBytes, hut, htr]; rfl
  rwa [hnone, List.nil_append] at htb

end

/-- Settles O57, by `run_of_codecProgram` for ENC. -/
theorem encryptProgramReadsTheCiphertext : Obligations.EncryptProgramReadsTheCiphertext := fun _ _ _ hb hp htr =>
  run_of_codecProgram blockCommand_enc hb htr hp

/-- Settles O58, by `run_of_codecProgram` for DEC. -/
theorem decryptProgramReadsThePlaintext : Obligations.DecryptProgramReadsThePlaintext := by
  intro C kb s hC hb hp htr
  rw [decryptProgram, if_pos hC] at hp
  obtain ⟨n, t, hn, htp, hread⟩ := run_of_codecProgram blockCommand_dec hb htr hp
  exact ⟨n, t, hn, htp, hread, by rw [hread, decryptBytes_of_lengthOk kb hC]⟩

end Sys2Proof.Machine
end

section
/-! ### Errors and IRQ (60_exceptions.md)

`State.raise` keeps the first error (R221), and a rejected encoding or a discarded register write is one `raise` (R222
to R224, R228). `written_errors_cases` says once which writes touch ERR and ERRCODE, and `written_irq_rises` which raise
IRQ; with `step_change` they say what a step can do. -/

namespace Sys2Proof.Machine

/-! ### Recording an error (R221) -/

theorem raise_of_err {s : State} (e : ErrCode) (h : s.err = true) : s.raise e = s := if_pos h

theorem raise_of_no_err {s : State} (e : ErrCode) (h : s.err = false) :
    s.raise e = { s with err := true, errCode := e.code } := by
  simp [State.raise, h]

/-- Settles O22: a second error is dropped, and the first one sets the two fields. -/
theorem raiseKeepsTheFirstError : Obligations.RaiseKeepsTheFirstError := by
  refine fun s e => ⟨raise_of_err e, fun h => ?_⟩
  rw [raise_of_no_err e h]
  exact ⟨rfl, rfl, rfl⟩

/-! ### Rejected encodings and writes while BUSY (R222 to R224, R228) -/

theorem writeEffect_ark_of_badRound {rnd : BitVec 4} (h : 10 < rnd.toNat) (s : State) :
    writeEffect (.ark rnd) s = s.raise .badRound := if_neg (Nat.not_le.2 h)

/-- Settles O7: while idle a CTRL write is its `writeEffect`, which for these terms is `raise`. -/
theorem rejectedEncodingsRecordTheirErrorOnly : Obligations.RejectedEncodingsRecordTheirErrorOnly := by
  refine fun s hb => ⟨fun i hi => ?badRound, fun op rnd => exec_idle (.illegal op rnd) hb⟩
  rw [exec_idle i hb]
  rcases hi with rfl | rfl | rfl | rfl | rfl | ⟨n, hn, rfl⟩
  · rfl
  · rfl
  · rfl
  · rfl
  · rfl
  · exact congrArg _ (writeEffect_ark_of_badRound hn s)

/-- Settles O8: the busy check comes before the instruction. -/
theorem ctrlWriteWhileBusyIsBusyWrite : Obligations.CtrlWriteWhileBusyIsBusyWrite :=
  fun i _ ht hb => exec_busy i ht hb

/-- While BUSY a write to CTRL or to an operand is discarded with BUSY_WRITE. -/
theorem writeReg_discarded_of_busy {s : State} {r : Reg} (v : Word) (ht : s.turn = .host) (hb : s.busy = true)
    (hr : r = .ctrl ∨ r = .keylen ∨ (∃ k, r = .key k) ∨ ∃ k, r = .din k) :
    s.writeReg r v = .next (s.raise .busyWrite) := by
  rcases hr with rfl | rfl | ⟨k, rfl⟩ | ⟨k, rfl⟩
  · exact exec_busy _ ht hb
  · exact congrArg _ (if_pos hb)
  · exact congrArg _ (if_pos hb)
  · exact congrArg _ (if_pos hb)

/-- Settles O20: the four discarded writes are one `raise`, and the three others do not ask whether the core is busy. -/
theorem writesWhileBusy : Obligations.WritesWhileBusy := fun s v ht hb =>
  ⟨fun _ hr => writeReg_discarded_of_busy v ht hb hr, rfl, rfl, congrArg _ (writeStatus_eq s v)⟩

/-! ### Which events touch ERR and ERRCODE (R220, R225, R231) -/

/-- A write of `v` to `r`, at a core that is busy or not, has the cause R220 gives for `code`. -/
def ErrorCause (busy : Bool) (r : Reg) (v : Word) (code : BitVec 4) : Prop :=
  (busy = true ∧ (r = .ctrl ∨ r = .keylen ∨ (∃ k, r = .key k) ∨ ∃ k, r = .din k) ∧ code = 2) ∨
    (busy = false ∧ r = .ctrl ∧ 12 ≤ (opField v).toNat ∧ code = 1) ∨
    (busy = false ∧ r = .ctrl ∧ opField v = 0xB ∧ 10 < (roundField v).toNat ∧ code = 3)

/-- The error record: ERR and ERRCODE (10_state.md R26). -/
def State.errors (s : State) : Bool × BitVec 4 := (s.err, s.errCode)

theorem errors_finish_effect (i : Instr) (op : BitVec 4) (s : State) : ((effect i s).finish op).errors = s.errors := by
  simp [State.errors]

theorem errors_writeStatus (s : State) (v : Word) :
    (s.writeStatus v).errors = if v.getLsbD 3 then (false, 0) else s.errors := by
  rw [writeStatus_eq, State.errors]
  cases v.getLsbD 3 <;> simp [State.errors]

/-- A register write records an error with its cause, or is a STATUS write, or leaves ERR and ERRCODE alone. -/
theorem written_errors_cases (r : Reg) (v : Word) (s : State) :
    (∃ e, ErrorCause s.busy r v e.code ∧ written r v s = s.raise e) ∨
    (r = .status ∧ written r v s = s.writeStatus v) ∨ (written r v s).errors = s.errors := by
  cases hb : s.busy
  · rcases idle_written r v s hb with ⟨-, -, he⟩ | ⟨-, -, he⟩ | ⟨hr, ho, he⟩ | ⟨hr, ho, hn, he⟩ | ⟨hr, he⟩ | ⟨-, he⟩ |
      ⟨-, he⟩ | ⟨k, -, he⟩ | ⟨k, -, he⟩ | ⟨-, he⟩ | ⟨he, -⟩
    · simp [he, State.errors]
    · simp [he, State.errors]
    · exact .inl ⟨.illegalOp, .inr (.inl ⟨rfl, hr, ho, rfl⟩), he⟩
    · exact .inl ⟨.badRound, .inr (.inr ⟨rfl, hr, ho, hn, rfl⟩), he⟩
    · exact .inr (.inl ⟨hr, he⟩)
    all_goals simp [he, State.errors]
  · rcases busy_written r v s hb with ⟨hr, he⟩ | ⟨hr, he⟩ | ⟨-, he⟩ | ⟨-, he⟩ | ⟨he, -⟩
    · exact .inl ⟨.busyWrite, .inl ⟨rfl, hr, rfl⟩, he⟩
    · exact .inr (.inl ⟨hr, he⟩)
    all_goals simp [he, State.errors]

/-- Settles O39: no completion touches ERR, and a reset or STATUS write only clears it. -/
theorem errorsComeOnlyFromTheseWrites : Obligations.ErrorsComeOnlyFromTheseWrites := by
  intro s t h hs ht
  have hne : t.errors ≠ s.errors := by simp [State.errors, hs, ht]
  rcases step_change State.errors h hne with ⟨op, rnd, -, rfl⟩ | ⟨hh, r, v, hn, he⟩ | ⟨-, p, rfl⟩
  · exact absurd (errors_finish_effect _ op s) hne
  · refine ⟨hh, r, v, hn, ?_⟩
    obtain ⟨herr, hcode⟩ := Prod.mk.inj he
    rcases written_errors_cases r v s with ⟨e, hc, hw⟩ | ⟨-, hw⟩ | hw
    · rw [hcode, hw, raise_of_no_err e hs]
      exact hc
    · simp [herr, hw, hs] at ht
    · exact absurd (he.trans hw) hne
  · simp at ht

/-- Settles O40: a later error is dropped by `raise`, so only the two events that clear ERR change it. -/
theorem theFirstErrorIsKeptUntilCleared : Obligations.TheFirstErrorIsKeptUntilCleared := by
  intro s t h hs
  by_cases hne : t.errors = s.errors
  · obtain ⟨herr, hcode⟩ := Prod.mk.inj hne
    exact .inl ⟨herr.trans hs, hcode⟩
  right
  rcases step_change State.errors h hne with ⟨op, rnd, -, rfl⟩ | ⟨hh, r, v, hn, he⟩ | ⟨⟨hh, hr⟩, p, rfl⟩
  · exact absurd (errors_finish_effect _ op s) hne
  · rcases written_errors_cases r v s with ⟨e, -, hw⟩ | ⟨rfl, hw⟩ | hw
    · rw [hw, raise_of_err e hs] at he
      exact absurd he hne
    · rw [hw, errors_writeStatus] at he
      split at he
      case isTrue hv =>
        obtain ⟨herr, hcode⟩ := Prod.mk.inj he
        exact ⟨hh, herr, hcode, .inr ⟨v, hn, hv⟩⟩
      case isFalse => exact absurd he hne
    · exact absurd (he.trans hw) hne
  · exact ⟨hh, rfl, rfl, .inl hr⟩

/-! ### The IRQ output (R226, R227) -/

/-- Only an INTEN write touches the enables (10_state.md R30). -/
theorem written_enables_of_ne_inten {r : Reg} (v : Word) (s : State) (hr : r ≠ .inten) :
    (written r v s).doneIe = s.doneIe ∧ (written r v s).errIe = s.errIe := by
  cases r
  case inten => exact absurd rfl hr
  case ctrl =>
    cases hb : s.busy
    · rcases written_ctrl_idle_cases v hb with ⟨-, he⟩ | ⟨-, he⟩ | ⟨e, he⟩ <;> simp [he]
    · simp [written, hb]
  case keylen | key | din =>
    cases hb : s.busy <;> simp [written, State.writeKeylen, State.writeKey, State.writeDin, hb]
  all_goals simp [written]

/-- IRQ rises at a register write with a recorded error or an INTEN write: no write sets DONE. -/
theorem written_irq_rises {r : Reg} {v : Word} {s : State} (hs : s.irq = false) (ht : (written r v s).irq = true) :
    (s.err = false ∧ (written r v s).err = true) ∨ r = .inten := by
  by_cases hr : r = .inten
  · exact .inr hr
  left
  obtain ⟨hd, he⟩ := written_enables_of_ne_inten v s hr
  simp only [State.irq, Bool.or_eq_false_iff, Bool.and_eq_false_iff, Bool.or_eq_true, Bool.and_eq_true, hd, he] at hs ht
  obtain ⟨hsd, hse⟩ := hs
  rcases ht with ⟨hdone, hie⟩ | ⟨herr, hie⟩
  · simp [done_of_written_done hdone, hie] at hsd
  · exact ⟨hse.resolve_right (by simp [hie]), herr⟩

/-- Settles O42: besides a completion only a register write can raise IRQ. -/
theorem irqRisesOnlyWithItsSources : Obligations.IrqRisesOnlyWithItsSources := by
  intro s t h hs ht
  have hne : (t.irq, t.err) ≠ (s.irq, s.err) := by simp [hs, ht]
  rcases step_change (fun s => (s.irq, s.err)) h hne with ⟨op, rnd, hc, -⟩ | ⟨-, r, v, hn, he⟩ | ⟨-, p, rfl⟩
  · exact .inl ⟨op, hc⟩
  · obtain ⟨hirq, herr⟩ := Prod.mk.inj he
    rcases written_irq_rises hs (hirq ▸ ht) with ⟨hse, hwe⟩ | rfl
    · exact .inr (.inl ⟨hse, herr.trans hwe⟩)
    · exact .inr (.inr ⟨v, hn⟩)
  · simp [State.irq] at ht

end Sys2Proof.Machine
end

section
/-! ### Reset and hazards (70_reset_and_hazards.md)

The reset event gives every register its reset value. A command in flight needs no help from the host: while BUSY every host
turn takes one off the countdown, and at 0 the command completes. -/

namespace Sys2Proof.Machine

/-! ### Completion in finitely many steps (R261) -/

/-- The host has only operations of the interface still to do, and no reset event. -/
def StaysInInterface (s : State) : Prop := ∀ o ∈ s.program, o.inScope = true ∧ o ≠ .reset

theorem onNext_eq_next {o : Result} {f : State → State} {t : State} :
    onNext o f = .next t ↔ ∃ u, o = .next u ∧ f u = t := by
  cases o <;> simp [onNext]

theorem hostOp_program_subset {op : HostOp} {rest : List HostOp} {s u : State} (ht : s.turn = .host)
    (h : hostOp op rest s = .next u) : u.program ⊆ op :: rest := by
  rcases hostOp_cases ht h with ⟨p, tr, rfl | rfl, rfl⟩ | ⟨a, off, v, -, -, rfl⟩ | ⟨-, rfl⟩
  · exact List.subset_cons_self op p
  · exact List.Subset.refl _
  · rw [written_withProgram]
    exact List.subset_cons_self op rest
  · exact List.subset_cons_self op rest

/-- The host's program only shrinks: no step gives it an operation it did not have. -/
theorem step_program_subset {s t : State} (h : step s = .next t) : t.program ⊆ s.program := by
  rcases turn_host_or_core s with ht | ht
  · cases hp : s.program with
    | nil =>
      simp only [step, ht, hostTurn, hp] at h
      cases h
      simp [hp]
    | cons op rest =>
      rw [step_hostOp ht hp, onNext_eq_next] at h
      obtain ⟨u, hu, rfl⟩ := h
      have hsub := hostOp_program_subset ht hu
      split
      · simpa using hsub
      · exact hsub
  · obtain ⟨-, op, rnd, hq⟩ := turn_core_iff.1 ht
    obtain ⟨rnd, rfl⟩ := step_completing h ⟨ht, rnd, hq⟩
    simp

theorem StaysInInterface.of_step {s t : State} (hs : StaysInInterface s) (h : step s = .next t) : StaysInInterface t :=
  fun o ho => hs o (step_program_subset h ho)

/-- A host turn while BUSY, other than the reset event, leaves the command in flight and takes one off its countdown. -/
theorem step_countdown {s t : State} (ht : s.turn = .host) (hb : s.busy = true) (hr : ¬ResetsNext s)
    (h : step s = .next t) : t.seq = s.seq ∧ t.wait = s.wait - 1 := by
  rcases step_cases h with ⟨hc, -⟩ | ⟨-, p, tr, w, hw, rfl⟩ | ⟨-, r, v, rest, -, -, rfl⟩ | ⟨-, rest, hp, -⟩
  · simp [ht] at hc
  · simpa [hb] using hw
  · obtain ⟨d, i1, i2, x, e, c, he⟩ := written_busy_keeps r v (s := s.withProgram rest) hb
    have hseq : (written r v (s.withProgram rest)).seq = s.seq := by simp [he]
    have hwait : (written r v (s.withProgram rest)).wait = s.wait := by simp [he]
    simp [hb, busy_congr hseq, hseq, hwait]
  · exact absurd ⟨rest, hp⟩ hr

/-- A legal command in flight faults no step, and operations in scope are not refused. -/
theorem step_answers {s : State} {op rnd : BitVec 4} (hc : commandPair op rnd = true) (hq : s.seq = .busy op rnd)
    (hs : StaysInInterface s) : ∃ t, step s = .next t := by
  cases h : step s with
  | next t => exact ⟨t, rfl⟩
  | fault f =>
    obtain ⟨op', rnd', hq', hc'⟩ := step_fault h
    cases hq.symm.trans hq'
    simp [hc] at hc'
  | refused r =>
    obtain ⟨-, op', rest, hp, hop⟩ := step_refused h
    have hin := (hs op' (by simp [hp])).1
    simp [(hostOp_refused hop).1] at hin

theorem StaysInInterface.not_resetsNext {s : State} (hs : StaysInInterface s) : ¬ResetsNext s :=
  fun ⟨_, hp⟩ => (hs .reset (by simp [hp])).2 rfl

theorem run_completes_of_busy {s : State} {op rnd : BitVec 4} (hc : commandPair op rnd = true) (hq : s.seq = .busy op rnd)
    (hs : StaysInInterface s) :
    ∃ t, Sys2Proof.core.run (s.wait + 1) s = .next t ∧ t.seq = .idle ∧ t.done = true ∧ t.lastOp = op := by
  induction hw : s.wait generalizing s with
  | zero =>
    have hstep := step_legal_pending hc (turn_core_iff.2 ⟨hw, op, rnd, hq⟩) hq
    exact ⟨_, run_succ_next Sys2Proof.core hstep, rfl, rfl, rfl⟩
  | succ w ih =>
    have ht : s.turn = .host := by simp [State.turn, hq, hw]
    obtain ⟨u, hstep⟩ := step_answers hc hq hs
    obtain ⟨hseq, hwait⟩ := step_countdown ht (busy_eq_true_iff.2 ⟨op, rnd, hq⟩) hs.not_resetsNext hstep
    obtain ⟨t, hrun, hend⟩ := ih (hseq.trans hq) (hs.of_step hstep) (by rw [hwait, hw, Nat.add_sub_cancel])
    exact ⟨t, (run_succ_next Sys2Proof.core hstep).trans hrun, hend⟩

/-- Settles O43, by induction on the countdown. -/
theorem everyAcceptedCommandCompletes : Obligations.EveryAcceptedCommandCompletes := by
  intro s op rnd hq hl hs
  obtain ⟨hc, -, -⟩ := (sequencerLegal_busy_iff hq).1 hl
  exact run_completes_of_busy hc hq hs

/-! ### Reset (R250, R251, R254) -/

/-- Settles O27: each register reads its constant field, and a bank of four holds the same word throughout. -/
theorem resetValuesOfTheRegisters : Obligations.ResetValuesOfTheRegisters :=
  ⟨rfl, rfl, rfl, rfl, Four.get_fill _, Four.get_fill _, Four.get_fill _, rfl, rfl, rfl, rfl, rfl, rfl,
    fun r c => (congrArg (Four.get · r) (Four.get_fill _ c)).trans (Four.get_fill _ r)⟩

/-- Settles O28: the event leaves the core idle, so nothing is left to count down. -/
theorem resetEventAbandonsTheCommand : Obligations.ResetEventAbandonsTheCommand := by
  intro s rest ht hp
  refine ⟨Config.rkAfterReset s.draw, 0, s.draw + 1, ?_⟩
  rw [step_hostOp ht hp, hostOp, onNext]
  cases s.busy <;> rfl

/-- Settles O29: KEY_VALID is 0 at reset, and what the other parts read is as the reset event gives it. -/
theorem invariantHoldsAtReset : Obligations.InvariantHoldsAtReset :=
  ⟨nofun, doutShowsWork_kept.reset .reset, errCodeLegal_kept.reset .reset,
    lastOpLegal_kept.reset .reset, sequencerLegal_kept.reset .reset⟩

/-- Settles O55: the three vectors by evaluation. -/
theorem knownAnswers : Obligations.KnownAnswers := by
  refine ⟨?bc3, ?bc1, ?ks1⟩
  case bc3 => decide +kernel
  case bc1 => decide +kernel
  case ks1 => decide +kernel

end Sys2Proof.Machine
end
